-- ==== Sys2Proof/Word.lean ====
section
/-! DEFINITION. The word types of the unit: byte, 16-bit halfword, 32-bit command word (R11, R12). -/

namespace Sys2Proof

/-- A byte: "A byte is 8 bits" (R12). -/
abbrev Byte := BitVec 8

/-- A 16-bit quantity: a CRC, an address, a count, a value, a read-port value (R11, R12). -/
abbrev Half := BitVec 16

/-- A 32-bit command word (R12, R61). -/
abbrev Word := BitVec 32

end Sys2Proof
end

