-- ==== Sys2Proof/Config.lean ====
section
/-! DEFINITION. What an implementation fixes (R10) and the free values the spec leaves open (R16, R93, R117). -/

namespace Sys2Proof.Config

/-- `HAS_FRAMER`: the framer option is present on this hardware (R2, R10, D20).
Every operation that reads it also exists in a form that takes it as an argument (…With). -/
def hasFramer : Bool := true

/-- `RX_CAP`: capacity of the receive buffer in bytes (R10, R32). -/
def rxCap : Nat := 263

/-- `TX_CAP`: capacity of the transmit buffer in bytes (R10, R34, R97). -/
def txCap : Nat := 263

/-- `VAL_CAP`: capacity of the write-multiple value buffer (R10, R31). -/
def valCap : Nat := 127

/-- `WORD_CAP`: capacity of the decoded-word buffer (R10, R31). -/
def wordCap : Nat := 127

/-- `RANGE_OK(addr, count)`, an OPEN parameter of the unit: a pure, total function of its two operands that
reads no state (R93, D19). No body: no proof can see a value of it, so a statement about it holds for every one.
Log entry 3. -/
opaque rangeOk : Half → Half → Bool

/-- The value an unspecified read-port read returns: a free draw, fresh on each read (R16, S1).
The argument is the number of reads made before. Log entry 4. -/
opaque freeRead : Nat → Half

/-! The unit's fields between power-on and the first reset: "any value its type allows" (R117, S2). Log entry 5. -/

/-- Free value of `crc` before the first reset (R117). -/
opaque powerOnCrc : Half
/-- Free value of `result` before the first reset (R117); all sixteen codes are possible. -/
opaque powerOnResult : BitVec 4
/-- Free value of `crc_ok` before the first reset (R117). -/
opaque powerOnCrcOk : Bool
/-- Free value of `rx_ovf` before the first reset (R117). -/
opaque powerOnRxOvf : Bool
/-- Free bytes from which `rx` before the first reset is taken, up to its capacity (R117). -/
opaque powerOnRx : List Byte
/-- Free value of `tx_valid` before the first reset (R117). -/
opaque powerOnTxValid : Bool
/-- Free value of `words_valid` before the first reset (R117). -/
opaque powerOnWordsValid : Bool
/-- Free value of `slave` before the first reset (R117). -/
opaque powerOnSlave : Option Byte
/-- Free value of `addr` before the first reset (R117). -/
opaque powerOnAddr : Option Half
/-- Free value of `arg` before the first reset (R117). -/
opaque powerOnArg : Option Half
/-- Free values from which `vals` before the first reset is taken, up to its capacity (R117). -/
opaque powerOnVals : List Half
/-- Free bytes from which `tx` before the first reset is taken, up to its capacity (R117). -/
opaque powerOnTx : List Byte
/-- Free words from which `words` before the first reset is taken, up to its capacity (R117). -/
opaque powerOnWords : List Half

/-- One value of the open parameter `CMD_BYTE_ORDER` (R46, D27): which byte of the 32-bit command word
(0 is bits 7:0, 3 is bits 31:24) a byte-wide platform carries first, second, third and fourth.
Nothing in the unit reads it: only `decodeBytes` and `serialiseWord`, which take it as an argument. Log entry 9. -/
structure CmdByteOrder where
  first : Fin 4
  second : Fin 4
  third : Fin 4
  fourth : Fin 4
  deriving DecidableEq, Repr

/-- An order carries each byte of the word exactly once. -/
abbrev CmdByteOrder.wf (o : CmdByteOrder) : Prop :=
  [o.first, o.second, o.third, o.fourth].Nodup

end Sys2Proof.Config
end

