-- ==== Sys2Proof/Syntax.lean ====
section
/-! DEFINITION. The commands of the unit as syntax: one constructor per row of the opcode map (R66, spec/opcode_table.json),
in the table's order, the table's illegal row included. -/

namespace Sys2Proof

/-- The three command formats: N no operand, B one byte operand, H one 16-bit operand (R62, R63, R64). -/
inductive Format where
  | n
  | b
  | h
  deriving DecidableEq, Repr

/-- A command (R66). Operands are the immediates of R65: unsigned, never extended, scaled or shifted. -/
inductive Instr where
  /-- CRC.INIT (R75) -/
  | crcInit
  /-- CRC.BYTE imm8 (R76) -/
  | crcByte (imm8 : Byte)
  /-- RX.START (R83) -/
  | rxStart
  /-- RX.BYTE imm8 (R84) -/
  | rxByte (imm8 : Byte)
  /-- RX.CHECK (R85) -/
  | rxCheck
  /-- SET.SLAVE imm8 (R87) -/
  | setSlave (imm8 : Byte)
  /-- SET.ADDR imm16 (R88) -/
  | setAddr (imm16 : Half)
  /-- SET.ARG imm16 (R89) -/
  | setArg (imm16 : Half)
  /-- VAL.PUSH imm16 (R90) -/
  | valPush (imm16 : Half)
  /-- VAL.CLEAR (R91) -/
  | valClear
  /-- ENC.READ (R94) -/
  | encRead
  /-- ENC.WRITE1 (R95) -/
  | encWrite1
  /-- ENC.WRITEN (R96) -/
  | encWriteN
  /-- DEC.READ (R99) -/
  | decRead
  /-- DEC.ACK imm8 (R100) -/
  | decAck (imm8 : Byte)
  /-- Any word that R67 decodes to `Illegal`; the word is kept, so that no bit of it is lost (R68). -/
  | illegal (w : Word)
  deriving DecidableEq, Repr

/-- The commands of the framer option: opcodes 0x6 to 0xF (R2, R66). -/
def Instr.isFramer : Instr → Bool
  | .crcInit => false
  | .crcByte _ => false
  | .rxStart => false
  | .rxByte _ => false
  | .rxCheck => false
  | .setSlave _ => true
  | .setAddr _ => true
  | .setArg _ => true
  | .valPush _ => true
  | .valClear => true
  | .encRead => true
  | .encWrite1 => true
  | .encWriteN => true
  | .decRead => true
  | .decAck _ => true
  | .illegal _ => false

end Sys2Proof
end

