-- ==== Sys2Proof/WellFormed.lean ====
section
/-! DEFINITION. When a term of `Instr` is a command of the unit: a framer command needs the framer (R66), and
`illegal w` needs a word that is illegal by R68. Every operand value is admitted: R76, R84, R87, R88 and R100
accept all of them, and the types of the operands already have the widths of R63 and R64. -/

namespace Sys2Proof

/-- The "must be 0" bits of a format: 27:0, 27:8 or 27:16 (R62, R63, R64). -/
def Format.reservedBits : Format → Word
  | .n => 0x0FFFFFFF
  | .b => 0x0FFFFF00
  | .h => 0x0FFF0000

/-- The format of an opcode, by the opcode map; opcode 0x0 has none (R66). -/
def formatOf (op : BitVec 4) : Option Format :=
  match op.toNat with
  | 0x1 | 0x3 | 0x5 | 0xA | 0xB | 0xC | 0xD | 0xE => some .n
  | 0x2 | 0x4 | 0x6 | 0xF => some .b
  | 0x7 | 0x8 | 0x9 => some .h
  | _ => none

/-- A word is legal when none of R68's three cases holds: opcode 0x0; a nonzero "must be 0" bit; a framer opcode
without the framer. -/
def legalWordWith (hasFramer : Bool) (w : Word) : Bool :=
  match formatOf (w.extractLsb' 28 4) with
  | none => false
  | some f => (w &&& f.reservedBits == 0) && (hasFramer || decide ((w.extractLsb' 28 4).toNat < 0x6))

/-- Well-formed commands of a unit with or without the framer (R66, R68). -/
def Instr.wfWith (hasFramer : Bool) (i : Instr) : Bool :=
  match i with
  | .illegal w => !legalWordWith hasFramer w
  | i => hasFramer || !i.isFramer

/-- Well-formed commands of this hardware. -/
def Instr.wf (i : Instr) : Bool := i.wfWith Config.hasFramer

end Sys2Proof
end

