-- ==== Sys2Proof/Decode.lean ====
section
/-! DEFINITION. Decoding a 32-bit command word (R61 to R69), total on all 2^32 words; then the encoder, written from the
format tables of R62 to R64 and the opcode map of R66; then command words carried over a byte-wide bus (R46). -/

namespace Sys2Proof

/-- `OP = w[31:28]` (R61). -/
def opcodeOf (w : Word) : BitVec 4 := w.extractLsb' 28 4

/-- `imm8 = w[7:0]` (R65). -/
def imm8Of (w : Word) : Byte := w.extractLsb' 0 8

/-- `imm16 = w[15:0]` (R65). -/
def imm16Of (w : Word) : Half := w.extractLsb' 0 16

/-- The command of a word whose opcode is present and whose "must be 0" bits are zero: the mnemonic of R66 with the
operand of R65. -/
def commandOf (w : Word) : Instr :=
  match (opcodeOf w).toNat with
  | 0x1 => .crcInit
  | 0x2 => .crcByte (imm8Of w)
  | 0x3 => .rxStart
  | 0x4 => .rxByte (imm8Of w)
  | 0x5 => .rxCheck
  | 0x6 => .setSlave (imm8Of w)
  | 0x7 => .setAddr (imm16Of w)
  | 0x8 => .setArg (imm16Of w)
  | 0x9 => .valPush (imm16Of w)
  | 0xA => .valClear
  | 0xB => .encRead
  | 0xC => .encWrite1
  | 0xD => .encWriteN
  | 0xE => .decRead
  | 0xF => .decAck (imm8Of w)
  | _ => .illegal w

/-- `decode(w, HAS_FRAMER)`, test by test in R67's order. -/
def decodeWith (hasFramer : Bool) (w : Word) : Instr :=
  if opcodeOf w = 0x0 then .illegal w
  else if 0x6 ≤ (opcodeOf w).toNat ∧ hasFramer = false then .illegal w
  else
    match formatOf (opcodeOf w) with
    | none => .illegal w
    | some .n => if w.extractLsb' 0 28 ≠ 0 then .illegal w else commandOf w
    | some .b => if w.extractLsb' 8 20 ≠ 0 then .illegal w else commandOf w
    | some .h => if w.extractLsb' 16 12 ≠ 0 then .illegal w else commandOf w

/-- Decoding on this hardware (R67 with R10's `HAS_FRAMER`). -/
def decode (w : Word) : Instr := decodeWith Config.hasFramer w

/-- The instruction the decoder reads from a table row's word: `w` holds the row's `nbits` bits, every bit above them is 0.
A value that does not fit `nbits` bits, or more than 32 bits, is no command word (R61: "Every command word has the
same length"). -/
def decodeTableWord (nbits w : Nat) : Option Instr :=
  if nbits ≤ 32 ∧ w < 2 ^ nbits then some (decode (BitVec.ofNat 32 w)) else none

/-! ### The encoder -/

/-- Format N: the opcode, and 28 zero bits (R62). -/
def wordN (op : BitVec 4) : Word := op ++ (0 : BitVec 28)

/-- Format B: the opcode, 20 zero bits, the byte operand (R63). -/
def wordB (op : BitVec 4) (imm8 : Byte) : Word := op ++ (0 : BitVec 20) ++ imm8

/-- Format H: the opcode, 12 zero bits, the 16-bit operand (R64). -/
def wordH (op : BitVec 4) (imm16 : Half) : Word := op ++ (0 : BitVec 12) ++ imm16

/-- The command word of a command, by the opcode map (R66); an illegal command is its own word (R68). -/
def encode : Instr → Word
  | .crcInit => wordN 0x1
  | .crcByte imm8 => wordB 0x2 imm8
  | .rxStart => wordN 0x3
  | .rxByte imm8 => wordB 0x4 imm8
  | .rxCheck => wordN 0x5
  | .setSlave imm8 => wordB 0x6 imm8
  | .setAddr imm16 => wordH 0x7 imm16
  | .setArg imm16 => wordH 0x8 imm16
  | .valPush imm16 => wordH 0x9 imm16
  | .valClear => wordN 0xA
  | .encRead => wordN 0xB
  | .encWrite1 => wordN 0xC
  | .encWriteN => wordN 0xD
  | .decRead => wordN 0xE
  | .decAck imm8 => wordB 0xF imm8
  | .illegal w => w

/-! ### The opcode map as a table (R66) -/

/-- A row of R66: `(w & mask) = match` selects the command; a framer row exists only with the framer. -/
structure OpcodeRow where
  name : String
  pattern : Word
  mask : Word
  framer : Bool
  deriving DecidableEq, Repr

/-- Does a word fall under a row: `(w & mask) = match` (R66). -/
def OpcodeRow.selects (r : OpcodeRow) (w : Word) : Bool := w &&& r.mask == r.pattern

/-- The fifteen command rows of R66, copied from its match and mask columns. -/
def opcodeRows : List OpcodeRow :=
  [ ⟨"CRC.INIT", 0x10000000, 0xFFFFFFFF, false⟩,
    ⟨"CRC.BYTE", 0x20000000, 0xFFFFFF00, false⟩,
    ⟨"RX.START", 0x30000000, 0xFFFFFFFF, false⟩,
    ⟨"RX.BYTE", 0x40000000, 0xFFFFFF00, false⟩,
    ⟨"RX.CHECK", 0x50000000, 0xFFFFFFFF, false⟩,
    ⟨"SET.SLAVE", 0x60000000, 0xFFFFFF00, true⟩,
    ⟨"SET.ADDR", 0x70000000, 0xFFFF0000, true⟩,
    ⟨"SET.ARG", 0x80000000, 0xFFFF0000, true⟩,
    ⟨"VAL.PUSH", 0x90000000, 0xFFFF0000, true⟩,
    ⟨"VAL.CLEAR", 0xA0000000, 0xFFFFFFFF, true⟩,
    ⟨"ENC.READ", 0xB0000000, 0xFFFFFFFF, true⟩,
    ⟨"ENC.WRITE1", 0xC0000000, 0xFFFFFFFF, true⟩,
    ⟨"ENC.WRITEN", 0xD0000000, 0xFFFFFFFF, true⟩,
    ⟨"DEC.READ", 0xE0000000, 0xFFFFFFFF, true⟩,
    ⟨"DEC.ACK", 0xF0000000, 0xFFFFFF00, true⟩ ]

/-- A command's mnemonic in R66; the illegal space has the table's own label. -/
def Instr.mnemonic : Instr → String
  | .crcInit => "CRC.INIT"
  | .crcByte _ => "CRC.BYTE"
  | .rxStart => "RX.START"
  | .rxByte _ => "RX.BYTE"
  | .rxCheck => "RX.CHECK"
  | .setSlave _ => "SET.SLAVE"
  | .setAddr _ => "SET.ADDR"
  | .setArg _ => "SET.ARG"
  | .valPush _ => "VAL.PUSH"
  | .valClear => "VAL.CLEAR"
  | .encRead => "ENC.READ"
  | .encWrite1 => "ENC.WRITE1"
  | .encWriteN => "ENC.WRITEN"
  | .decRead => "DEC.READ"
  | .decAck _ => "DEC.ACK"
  | .illegal _ => "(illegal)"

/-! ### Command words on a byte-wide bus (R46) -/

/-- Byte `k` of a word: 0 is bits 7:0, 3 is bits 31:24. -/
def wordByte (w : Word) (k : Fin 4) : Byte := w.extractLsb' (8 * k.val) 8

/-- The four bytes of a command word in the order the platform carries them (R46). -/
def serialiseWord (o : Config.CmdByteOrder) (w : Word) : List Byte :=
  [wordByte w o.first, wordByte w o.second, wordByte w o.third, wordByte w o.fourth]

/-- The command word of four bytes carried in order `o` (R46). -/
def assembleWord (o : Config.CmdByteOrder) (a b c d : Byte) : Word :=
  let place (k : Fin 4) : Byte :=
    if o.first = k then a else if o.second = k then b else if o.third = k then c else d
  place 3 ++ place 2 ++ place 1 ++ place 0

/-- Decode the next command from a byte stream carried in order `o`, and return the rest of the stream;
`none` where fewer than four bytes are left: "The command port takes only whole 32-bit words" (R46, R48). -/
def decodeBytes (o : Config.CmdByteOrder) : List Byte → Option (Instr × List Byte)
  | a :: b :: c :: d :: rest => some (decode (assembleWord o a b c d), rest)
  | _ => none

end Sys2Proof
end

