-- ==== Sys2Proof/Machine/State.lean ====
section
/-! DEFINITION. The machine's state: the unit's thirteen fields (R18), and beside them the host's side of a run (R8, R126).
Plain data throughout; the reasons a step could stop (there are none the spec gives: R105, R126). -/

namespace Sys2Proof.Machine

/-- What the host can do to the unit: exactly these three things (R8). -/
inductive HostAction where
  /-- Write a 32-bit command word to the command port. -/
  | command (w : Word)
  /-- Read the 16-bit value at a 16-bit index of the read port. -/
  | read (index : Half)
  /-- Assert reset. -/
  | reset
  deriving DecidableEq, Repr

/-- The unit's complete state is the first thirteen fields (R18). The last four are the model's own: they hold the
host's actions still to come and what its reads returned (log entries 1, 4, 5). -/
structure State where
  /-- `crc`: the CRC engine's accumulator (R19). -/
  crc : Half
  /-- `result`: the outcome code of the last command (R21, R103). -/
  result : BitVec 4
  /-- `crc_ok`: outcome of the last CRC check of the RX buffer (R22). -/
  crcOk : Bool
  /-- `rx_ovf`: RX buffer overflow, sticky until RX.START or reset (R23). -/
  rxOvf : Bool
  /-- `rx`: the bytes of the frame being received, in arrival order (R32). -/
  rx : List Byte
  /-- `tx_valid`: the TX buffer holds a frame the last encoder command built (R24). -/
  txValid : Bool
  /-- `words_valid`: the word buffer holds the words of the last DEC.READ, which succeeded (R25). -/
  wordsValid : Bool
  /-- `slave`: the slave id operand; `none` until a command writes it (R15, R28). -/
  slave : Option Byte
  /-- `addr`: the remote register address operand (R15, R29). -/
  addr : Option Half
  /-- `arg`: the count or value operand (R15, R30). -/
  arg : Option Half
  /-- `vals`: the write-multiple values, in push order (R33). -/
  vals : List Half
  /-- `tx`: the bytes of the last built frame, in wire order (R34). -/
  tx : List Byte
  /-- `words`: the words of the last successful read response, in frame order (R35). -/
  words : List Half
  /-- MODEL'S OWN: the host's actions still to come, oldest first (R8, R126; log entry 1). -/
  pending : List HostAction
  /-- MODEL'S OWN: the values the host's reads returned, oldest first (R126; log entry 4). -/
  observed : List Half
  /-- MODEL'S OWN: how many reads were made; it picks the next free value (R16; log entry 4). -/
  draws : Nat
  /-- MODEL'S OWN: a reset has been asserted since power-on (R117; log entry 5). -/
  resetSeen : Bool
  deriving DecidableEq, Repr

/-- The ways the machine can stop with a fault: none. "The unit never stops by itself, never hangs and never faults"
(R126), so nothing can raise one and the type has no constructor (log entry 7). -/
inductive Fault where
  deriving DecidableEq, Repr

/-- The ways an instruction can be refused. -/
inductive Refusal where
  /-- Raised by exec's arm of an instruction that has no meaning yet, and by nothing else; safe. Every instruction of
  this model has its meaning, so no arm raises it. -/
  | notModelled (mnemonic : String)
  deriving DecidableEq, Repr

/-- The machine right after reset: every field of the unit at the value of R115. The model's own fields start with
no action pending, nothing observed and no draw made (DESIGN CHOICE, log entries 1, 4, 5). -/
def State.reset : State where
  crc := 0xFFFF
  result := 0
  crcOk := false
  rxOvf := false
  rx := []
  txValid := false
  wordsValid := false
  slave := none
  addr := none
  arg := none
  vals := []
  tx := []
  words := []
  pending := []
  observed := []
  draws := 0
  resetSeen := true

end Sys2Proof.Machine
end

