-- ==== Sys2Proof/Machine/Flags.lean ====
section
/-! DEFINITION. The outcome of a command (R103) and the STATUS and CONFIG views (R20, R26). -/

namespace Sys2Proof.Machine

/-- The outcomes a command can complete with (R103). -/
inductive ResultCode where
  | ok
  | invalidRange
  | shortFrame
  | slaveMismatch
  | functionMismatch
  | crcMismatch
  | lengthMismatch
  | overflow
  | operandUnset
  | illegalCommand
  deriving DecidableEq, Repr

/-- The numbers of R103; the codes 10 to 15 are never written. -/
def ResultCode.code : ResultCode → BitVec 4
  | .ok => 0
  | .invalidRange => 1
  | .shortFrame => 2
  | .slaveMismatch => 3
  | .functionMismatch => 4
  | .crcMismatch => 5
  | .lengthMismatch => 6
  | .overflow => 7
  | .operandUnset => 8
  | .illegalCommand => 9

/-- `result <- E`: record the outcome of a command, and nothing else (R14, R21, R105). This stands where another
machine would take an exception: "the unit never traps" (R14). -/
def complete (e : ResultCode) (s : State) : State := { s with result := e.code }

/-- One bit of a status word, at position `k`. -/
def statusBit (b : Bool) (k : Nat) : Half := (BitVec.ofBool b).setWidth 16 <<< k

/-- STATUS, assembled from its source fields; without the framer bits 10:6 read as zero (R20). -/
def statusWith (hasFramer : Bool) (s : State) : Half :=
  s.result.setWidth 16 ||| statusBit s.crcOk 4 ||| statusBit s.rxOvf 5
    ||| statusBit (hasFramer && s.txValid) 6 ||| statusBit (hasFramer && s.wordsValid) 7
    ||| statusBit (hasFramer && s.slave.isSome) 8 ||| statusBit (hasFramer && s.addr.isSome) 9
    ||| statusBit (hasFramer && s.arg.isSome) 10

/-- STATUS on this hardware (R20). -/
def status (s : State) : Half := statusWith Config.hasFramer s

/-- CONFIG: bit 0 is `HAS_FRAMER`, bits 15:1 read as zero (R26). -/
def configWith (hasFramer : Bool) : Half := statusBit hasFramer 0

end Sys2Proof.Machine
end

