-- ==== Sys2Proof/Machine/Ops.lean ====
section
/-! DEFINITION. The shared operations: the CRC function (R72 to R74, R81), splitting and joining 16-bit fields (R43, R44),
and the effects that several commands share (R92, R99, R100). Taking an exception has no counterpart here: the unit has
no trap (R105); `complete` (Flags.lean) records a command's outcome. -/

namespace Sys2Proof.Machine

/-! ### The CRC function -/

/-- The polynomial constant 0xA001 (R3, R72). -/
def crcPoly : Half := 0xA001

/-- The initial value 0xFFFF (R3, R73). -/
def crcInitial : Half := 0xFFFF

/-- One of the eight rounds of R72: shift right, and fold the polynomial in when the bit shifted out was 1. -/
def crcRound (c : Half) : Half :=
  if c.getLsbD 0 then (c >>> 1) ^^^ crcPoly else c >>> 1

/-- `crc16_step(c, b)`: the byte enters at the low end, then eight rounds (R72). -/
def crc16Step (c : Half) (b : Byte) : Half :=
  Nat.repeat crcRound 8 (c ^^^ b.setWidth 16)

/-- Fold a list of bytes into a CRC value, first byte first (R73, R76). -/
def crcFold (c : Half) (bs : List Byte) : Half := bs.foldl crc16Step c

/-- `crc16(bs)`: the fold from the initial value; the result is used as it stands (R73). -/
def crc16 (bs : List Byte) : Half := crcFold crcInitial bs

/-- Bits 7:0 of a 16-bit field. -/
def loByte (v : Half) : Byte := v.extractLsb' 0 8

/-- Bits 15:8 of a 16-bit field. -/
def hiByte (v : Half) : Byte := v.extractLsb' 8 8

/-- A 16-bit field on the wire, big-endian: `[v[15:8], v[7:0]]` (R44). -/
def fieldBytes (v : Half) : List Byte := [hiByte v, loByte v]

/-- The bytes `[h, l]` of a field read back: `(h << 8) | l` (R44). -/
def joinBytes (h l : Byte) : Half := (h.setWidth 16 <<< 8) ||| l.setWidth 16

/-- A CRC on the wire, little-endian: `crc_lo`, then `crc_hi` (R43). -/
def crcBytes (c : Half) : List Byte := [loByte c, hiByte c]

/-- `append_crc(m)` (R74). -/
def appendCrc (m : List Byte) : List Byte := m ++ crcBytes (crc16 m)

/-- Byte `i` of a frame. The commands read it only below the frame's length, where it is the frame's own byte; the
zero past the end is never read by them. -/
def frameByte (f : List Byte) (i : Nat) : Byte := f.getD i 0

/-- `crc_valid(f)`: at least two bytes, and the last two are the CRC of those before them, low byte first (R81). -/
def crcValid (f : List Byte) : Bool :=
  decide (2 ≤ f.length) &&
    (crc16 (f.take (f.length - 2)) == joinBytes (frameByte f (f.length - 1)) (frameByte f (f.length - 2)))

/-- The big-endian 16-bit words of a payload, first word first (R44, R99). -/
def unpackWords : List Byte → List Half
  | h :: l :: rest => joinBytes h l :: unpackWords rest
  | _ => []

/-! ### Effects that several commands share -/

/-- `enc_fail(E)`: an encoder that fails leaves no frame behind, and changes no other field (R92). -/
def encFail (e : ResultCode) (s : State) : State :=
  { complete e s with tx := [], txValid := false }

/-- An encoder that succeeds: the message with its CRC becomes the whole of `tx` (R94, R95, R96). -/
def encBuild (m : List Byte) (s : State) : State :=
  { complete .ok s with tx := appendCrc m, txValid := true }

/-- An encoder ends: with the message of its frame, or with the error that stopped it (R92, R94, R95, R96). -/
def encEnd (request : Except ResultCode (List Byte)) (s : State) : State :=
  match request with
  | .error e => encFail e s
  | .ok m => encBuild m s

/-- A check of the RX buffer ends: `crc_ok <- k; result <- E` (R85, R100). -/
def checkEnd (e : ResultCode) (k : Bool) (s : State) : State :=
  { complete e s with crcOk := k }

/-- DEC.READ fails: `words <- []; words_valid <- 0; crc_ok <- k; result <- E` (R99). -/
def decReadFail (e : ResultCode) (k : Bool) (s : State) : State :=
  { checkEnd e k s with words := [], wordsValid := false }

/-- DEC.READ succeeds with the words of the payload (R99). -/
def decReadDone (ws : List Half) (s : State) : State :=
  { checkEnd .ok true s with words := ws, wordsValid := true }

/-- DEC.READ ends: with the words of the payload, or with the error that stopped it and whether the CRC comparison had
held by then (R99). -/
def decReadEnd (verdict : Except (ResultCode × Bool) (List Half)) (s : State) : State :=
  match verdict with
  | .error (e, k) => decReadFail e k s
  | .ok ws => decReadDone ws s

end Sys2Proof.Machine
end

