-- ==== Sys2Proof/Machine/Crc.lean ====
section
/-! DEFINITION. The CRC engine's commands: CRC.INIT and CRC.BYTE (spec/40_crc.md). -/

namespace Sys2Proof.Machine

/-- CRC.INIT: start a new CRC computation (R75). -/
def execCrcInit (s : State) : Host.Outcome State Fault Refusal :=
  .next { complete .ok s with crc := crcInitial }

/-- CRC.BYTE: fold one byte into the running CRC; always OK (R76). -/
def execCrcByte (imm8 : Byte) (s : State) : Host.Outcome State Fault Refusal :=
  .next { complete .ok s with crc := crc16Step s.crc imm8 }

end Sys2Proof.Machine
end

