-- ==== Sys2Proof/Machine/Decoder.lean ====
section
/-! DEFINITION. The response decoder: DEC.READ and DEC.ACK (spec/44_decode.md), the checks in the resolved order of
spec/90_conflicts.md C1 and C3: length, CRC, slave, function, byte count. -/

namespace Sys2Proof.Machine

/-- The words of a read response, or the outcome that stops DEC.READ and the value of `crc_ok`; the first check that
applies decides (R99). -/
def readVerdict (slave : Option Byte) (rxOvf : Bool) (rx : List Byte) : Except (ResultCode × Bool) (List Half) :=
  match slave with
  | none => .error (.operandUnset, false)
  | some slave =>
    if rxOvf then .error (.overflow, false)
    else if rx.length < 5 then .error (.shortFrame, false)
    else if crcValid rx = false then .error (.crcMismatch, false)
    else if frameByte rx 0 ≠ slave then .error (.slaveMismatch, true)
    else if frameByte rx 1 ≠ 0x03 then .error (.functionMismatch, true)
    else if rx.length < 5 + (frameByte rx 2).toNat then .error (.shortFrame, true)
    else if 5 + (frameByte rx 2).toNat < rx.length ∨ (frameByte rx 2).toNat % 2 = 1 then
      .error (.lengthMismatch, true)
    else .ok (unpackWords ((rx.drop 3).take (frameByte rx 2).toNat))

/-- The outcome of DEC.ACK and the value of `crc_ok`; the first check that applies decides. The echoed bytes 2 to L-3 are
deliberately not checked (R100). -/
def ackVerdict (expected : Byte) (slave : Option Byte) (rxOvf : Bool) (rx : List Byte) : ResultCode × Bool :=
  match slave with
  | none => (.operandUnset, false)
  | some slave =>
    if rxOvf then (.overflow, false)
    else if rx.length < 8 then (.shortFrame, false)
    else if crcValid rx = false then (.crcMismatch, false)
    else if frameByte rx 0 ≠ slave then (.slaveMismatch, true)
    else if frameByte rx 1 ≠ expected then (.functionMismatch, true)
    else (.ok, true)

/-- DEC.READ: decode a Read Holding Registers response (R99). -/
def execDecRead (s : State) : Host.Outcome State Fault Refusal :=
  .next (decReadEnd (readVerdict s.slave s.rxOvf s.rx) s)

/-- DEC.ACK: check a write acknowledgement (R100). -/
def execDecAck (imm8 : Byte) (s : State) : Host.Outcome State Fault Refusal :=
  .next (checkEnd (ackVerdict imm8 s.slave s.rxOvf s.rx).1 (ackVerdict imm8 s.slave s.rxOvf s.rx).2 s)

end Sys2Proof.Machine
end

