-- ==== Sys2Proof/Machine/Operands.lean ====
section
/-! DEFINITION. The operand forms. A command's own operand is the immediate of R65, which the decoder assembles; what a
framer command needs beyond it stands in the operand registers (R27), and a `none` there makes the operand unset (R15). -/

namespace Sys2Proof.Machine

/-- The operands of ENC.READ and ENC.WRITE1: slave, address and count or value, if all three are set (R94, R95). -/
def requestOperands (slave : Option Byte) (addr arg : Option Half) : Option (Byte × Half × Half) :=
  match slave, addr, arg with
  | some slave, some addr, some arg => some (slave, addr, arg)
  | _, _, _ => none

/-- The operands of ENC.WRITEN: slave and address, if both are set; `arg` is not used (R96). -/
def listOperands (slave : Option Byte) (addr : Option Half) : Option (Byte × Half) :=
  match slave, addr with
  | some slave, some addr => some (slave, addr)
  | _, _ => none

end Sys2Proof.Machine
end

