-- ==== Sys2Proof/Machine/Encoder.lean ====
section
/-! DEFINITION. The request encoder: ENC.READ, ENC.WRITE1 and ENC.WRITEN (spec/43_encode.md). -/

namespace Sys2Proof.Machine

/-- Slave id, function code, address and one more 16-bit field: the message of the 0x03 and 0x06 requests, and the
head of the 0x10 request (R94, R95, R96). -/
def requestMessage (slave fc : Byte) (addr v : Half) : List Byte :=
  [slave, fc] ++ fieldBytes addr ++ fieldBytes v

/-- The message of the 0x10 request: the count `n` and the byte count `2 * n`, then the values, each high byte first
(R96). The count field being the number of values is the spec's supply G6 (log entry 12). -/
def writeMultipleMessage (slave : Byte) (addr : Half) (vals : List Half) : List Byte :=
  requestMessage slave 0x10 addr (BitVec.ofNat 16 vals.length) ++ [BitVec.ofNat 8 (2 * vals.length)]
    ++ vals.flatMap fieldBytes

/-- The 0x03 request, or the error of R94, the checks in its order: an unset operand, count 0, `RANGE_OK` false. The open
parameter `RANGE_OK` is an argument (R93). -/
def readRequest (rangeOk : Half → Half → Bool) (slave : Option Byte) (addr arg : Option Half) :
    Except ResultCode (List Byte) :=
  match requestOperands slave addr arg with
  | none => .error .operandUnset
  | some (slave, addr, count) =>
    if count = 0 then .error .invalidRange
    else if rangeOk addr count = false then .error .invalidRange
    else .ok (requestMessage slave 0x03 addr count)

/-- The 0x06 request, or the error of R95; there is no range check on address or value. -/
def writeRequest (slave : Option Byte) (addr arg : Option Half) : Except ResultCode (List Byte) :=
  match requestOperands slave addr arg with
  | none => .error .operandUnset
  | some (slave, addr, value) => .ok (requestMessage slave 0x06 addr value)

/-- The 0x10 request, or the error of R96: an unset operand, then an empty list. -/
def writeMultipleRequest (slave : Option Byte) (addr : Option Half) (vals : List Half) :
    Except ResultCode (List Byte) :=
  match listOperands slave addr with
  | none => .error .operandUnset
  | some (slave, addr) =>
    if vals.length = 0 then .error .invalidRange
    else .ok (writeMultipleMessage slave addr vals)

/-- ENC.READ with the open parameter `RANGE_OK` as an argument (R93, R94). -/
def encReadWith (rangeOk : Half → Half → Bool) (s : State) : State :=
  encEnd (readRequest rangeOk s.slave s.addr s.arg) s

/-- ENC.READ: build a Read Holding Registers request (R94). -/
def execEncRead (s : State) : Host.Outcome State Fault Refusal :=
  .next (encReadWith Config.rangeOk s)

/-- ENC.WRITE1: build a Write Single Register request (R95). -/
def execEncWrite1 (s : State) : Host.Outcome State Fault Refusal :=
  .next (encEnd (writeRequest s.slave s.addr s.arg) s)

/-- ENC.WRITEN: build a Write Multiple Registers request from the value list, which it does not consume (R96). -/
def execEncWriteN (s : State) : Host.Outcome State Fault Refusal :=
  .next (encEnd (writeMultipleRequest s.slave s.addr s.vals) s)

end Sys2Proof.Machine
end

