-- ==== Sys2Proof/Machine/FramerOperands.lean ====
section
/-! DEFINITION. The commands that load the framer's operands: SET.SLAVE, SET.ADDR, SET.ARG, VAL.PUSH and VAL.CLEAR
(spec/42_operands.md). None of them checks a range. -/

namespace Sys2Proof.Machine

/-- SET.SLAVE: every value 0x00 to 0xFF is accepted (R87). -/
def execSetSlave (imm8 : Byte) (s : State) : Host.Outcome State Fault Refusal :=
  .next { complete .ok s with slave := some imm8 }

/-- SET.ADDR (R88). -/
def execSetAddr (imm16 : Half) (s : State) : Host.Outcome State Fault Refusal :=
  .next { complete .ok s with addr := some imm16 }

/-- SET.ARG (R89). -/
def execSetArg (imm16 : Half) (s : State) : Host.Outcome State Fault Refusal :=
  .next { complete .ok s with arg := some imm16 }

/-- VAL.PUSH: append one value; a full list drops it, with no sticky bit (R90). -/
def execValPush (imm16 : Half) (s : State) : Host.Outcome State Fault Refusal :=
  if s.vals.length < Config.valCap then
    .next { complete .ok s with vals := s.vals ++ [imm16] }
  else
    .next (complete .overflow s)

/-- VAL.CLEAR (R91). -/
def execValClear (s : State) : Host.Outcome State Fault Refusal :=
  .next { complete .ok s with vals := [] }

end Sys2Proof.Machine
end

