-- ==== Sys2Proof/Machine/Illegal.lean ====
section
/-! DEFINITION. The illegal space of the opcode map (R68). -/

namespace Sys2Proof.Machine

/-- An illegal command writes `IllegalCommand` (9) to `result` and changes no other field; it does not trap and does
not stop the unit (R68). -/
def execIllegal (s : State) : Host.Outcome State Fault Refusal :=
  .next (complete .illegalCommand s)

end Sys2Proof.Machine
end

