-- ==== Sys2Proof/Machine/Validator.lean ====
section
/-! DEFINITION. The frame validator's commands: RX.START, RX.BYTE and RX.CHECK (spec/41_validator.md). -/

namespace Sys2Proof.Machine

/-- RX.START: begin receiving a new frame (R83). -/
def execRxStart (s : State) : Host.Outcome State Fault Refusal :=
  .next { checkEnd .ok false s with rx := [], rxOvf := false }

/-- RX.BYTE: append one received byte; a full buffer drops it and sets the sticky `rx_ovf` (R84). -/
def execRxByte (imm8 : Byte) (s : State) : Host.Outcome State Fault Refusal :=
  if s.rx.length < Config.rxCap then
    .next { complete .ok s with rx := s.rx ++ [imm8] }
  else
    .next { complete .overflow s with rxOvf := true }

/-- The outcome of RX.CHECK and the value of `crc_ok`, the checks in the order of R85. -/
def rxVerdict (rxOvf : Bool) (rx : List Byte) : ResultCode × Bool :=
  if rxOvf then (.overflow, false)
  else if rx.length < 4 then (.shortFrame, false)
  else if crcValid rx then (.ok, true)
  else (.crcMismatch, false)

/-- RX.CHECK: validate the buffered frame's CRC (R85). -/
def execRxCheck (s : State) : Host.Outcome State Fault Refusal :=
  .next (checkEnd (rxVerdict s.rxOvf s.rx).1 (rxVerdict s.rxOvf s.rx).2 s)

end Sys2Proof.Machine
end

