-- ==== Sys2Proof/Machine/Dispatch.lean ====
section
/-! DEFINITION. One arm per command, in the opcode map's order (R66). -/

namespace Sys2Proof.Machine

def exec (i : Instr) (s : State) : Host.Outcome State Fault Refusal :=
  match i with
  | .crcInit => Sys2Proof.Machine.execCrcInit s
  | .crcByte imm8 => Sys2Proof.Machine.execCrcByte imm8 s
  | .rxStart => Sys2Proof.Machine.execRxStart s
  | .rxByte imm8 => Sys2Proof.Machine.execRxByte imm8 s
  | .rxCheck => Sys2Proof.Machine.execRxCheck s
  | .setSlave imm8 => Sys2Proof.Machine.execSetSlave imm8 s
  | .setAddr imm16 => Sys2Proof.Machine.execSetAddr imm16 s
  | .setArg imm16 => Sys2Proof.Machine.execSetArg imm16 s
  | .valPush imm16 => Sys2Proof.Machine.execValPush imm16 s
  | .valClear => Sys2Proof.Machine.execValClear s
  | .encRead => Sys2Proof.Machine.execEncRead s
  | .encWrite1 => Sys2Proof.Machine.execEncWrite1 s
  | .encWriteN => Sys2Proof.Machine.execEncWriteN s
  | .decRead => Sys2Proof.Machine.execDecRead s
  | .decAck imm8 => Sys2Proof.Machine.execDecAck imm8 s
  | .illegal _ => Sys2Proof.Machine.execIllegal s

end Sys2Proof.Machine
end

