-- ==== Sys2Proof/Machine/HostPort.lean ====
section
/-! DEFINITION. The unit's three interfaces (R40): the command port, the read port (R41) and the reset input (R115); and
the state at power-on (R117). -/

namespace Sys2Proof.Machine

/-! ### Command port -/

/-- A command word written to the command port of a unit with or without the framer: decoded, then performed
completely (R7, R67). -/
def issueWith (hasFramer : Bool) (w : Word) (s : State) : Host.Outcome State Fault Refusal :=
  exec (decodeWith hasFramer w) s

/-- A command word written to the command port of this hardware. -/
def issue (w : Word) (s : State) : Host.Outcome State Fault Refusal := issueWith Config.hasFramer w s

/-! ### Read port -/

/-- A value that only the framer has: unspecified when `HAS_FRAMER` is false (R41). -/
def framerValue (hasFramer : Bool) (v : Option Half) : Option Half := if hasFramer then v else none

/-- The read-port map, row by row; `none` is an unspecified value (R41). A buffer's element past its length, an unset
operand and an unmapped index are unspecified. -/
def readPortWith (hasFramer : Bool) (s : State) (a : Half) : Option Half :=
  if a = 0x000 then some s.crc
  else if a = 0x001 then some (statusWith hasFramer s)
  else if a = 0x002 then framerValue hasFramer (s.slave.map (BitVec.setWidth 16))
  else if a = 0x003 then framerValue hasFramer s.addr
  else if a = 0x004 then framerValue hasFramer s.arg
  else if a = 0x005 then framerValue hasFramer (some (BitVec.ofNat 16 s.vals.length))
  else if a = 0x006 then some (BitVec.ofNat 16 s.rx.length)
  else if a = 0x007 then framerValue hasFramer (some (BitVec.ofNat 16 s.tx.length))
  else if a = 0x008 then framerValue hasFramer (some (BitVec.ofNat 16 s.words.length))
  else if a = 0x009 then some (configWith hasFramer)
  else if 0x100 ≤ a.toNat ∧ a.toNat < 0x100 + Config.valCap then
    framerValue hasFramer s.vals[a.toNat - 0x100]?
  else if 0x200 ≤ a.toNat ∧ a.toNat < 0x200 + Config.rxCap then
    s.rx[a.toNat - 0x200]?.map (BitVec.setWidth 16)
  else if 0x400 ≤ a.toNat ∧ a.toNat < 0x400 + Config.txCap then
    framerValue hasFramer (s.tx[a.toNat - 0x400]?.map (BitVec.setWidth 16))
  else if 0x600 ≤ a.toNat ∧ a.toNat < 0x600 + Config.wordCap then
    framerValue hasFramer s.words[a.toNat - 0x600]?
  else none

/-- The read-port map of this hardware; before the first reset every index is unspecified (R41, R117). -/
def readPort (s : State) (a : Half) : Option Half :=
  if s.resetSeen then readPortWith Config.hasFramer s a else none

/-- The value a read returns: the map's value, or a free draw where it is unspecified (R16, R41). -/
def readValue (s : State) (a : Half) : Half := (readPort s a).getD (Config.freeRead s.draws)

/-- A read by the host: it notes the value returned and changes no field of the unit (R42, R126). The counter moves
on with every read, so that no two reads share a draw. -/
def performRead (a : Half) (s : State) : State :=
  { s with observed := s.observed ++ [readValue s a], draws := s.draws + 1 }

/-! ### Reset input -/

/-- Reset: every field of the unit at once to its reset value, whatever the state before (R115). The host's own side
of the run is not the unit's and stays. -/
def performReset (s : State) : State :=
  { State.reset with pending := s.pending, observed := s.observed, draws := s.draws }

/-! ### Power-on -/

/-- The machine at power-on, before its first reset: every field holds a free value of its type, the buffers within
their capacities, and no reset has been seen (R117, S2; log entry 5). -/
def State.powerOn (actions : List HostAction) : State where
  crc := Config.powerOnCrc
  result := Config.powerOnResult
  crcOk := Config.powerOnCrcOk
  rxOvf := Config.powerOnRxOvf
  rx := Config.powerOnRx.take Config.rxCap
  txValid := Config.powerOnTxValid
  wordsValid := Config.powerOnWordsValid
  slave := Config.powerOnSlave
  addr := Config.powerOnAddr
  arg := Config.powerOnArg
  vals := Config.powerOnVals.take Config.valCap
  tx := Config.powerOnTx.take Config.txCap
  words := Config.powerOnWords.take Config.wordCap
  pending := actions
  observed := []
  draws := 0
  resetSeen := false

/-! ### The host's actions -/

/-- The machine with the host's next action taken from the front of its sequence: "in the order the host issues them"
(R56). -/
def takeAction (s : State) : Option (HostAction × State) :=
  match s.pending with
  | [] => none
  | a :: rest => some (a, { s with pending := rest })

/-- One action of the host performed (R8). -/
def perform (a : HostAction) (s : State) : Host.Outcome State Fault Refusal :=
  match a with
  | .command w => issue w s
  | .read index => .next (performRead index s)
  | .reset => .next (performReset s)

/-- The host issues a word as its very next action (R8). -/
def issueNext (w : Word) (s : State) : State := { s with pending := .command w :: s.pending }

end Sys2Proof.Machine
end

