-- ==== Sys2Proof/Machine/Step.lean ====
section
/-! DEFINITION. One step of the machine: it takes the host's next action and performs it (R7, R8). The unit fetches
nothing (R59); the host supplies the command sequence (R36). -/

namespace Sys2Proof.Machine

/-- One step. With no action pending the unit waits, unchanged: "The unit never initiates anything" (R8) and "never
stops by itself" (R126) (log entry 2). -/
def step (s : State) : Host.Outcome State Fault Refusal :=
  match takeAction s with
  | none => .next s
  | some (a, s') => perform a s'

/-- The state with one instruction placed where `step` takes its next one: the host's next action is to write that
word (log entry 1). -/
def State.withFetchWord (s : State) (nbits w : Nat) : State :=
  issueNext (BitVec.ofNat 32 (w % 2 ^ nbits)) s

end Sys2Proof.Machine
end

