-- ==== Sys2Proof/Machine/RemoteMap.lean ====
section
/-! DEFINITION. The remote device's register map and data formats, which the framer's address operand and the decoded
words refer to (R52 to R55). No command of the unit reads any of this: it is not state of the unit (R6), and only the
assembler's operand names (R70) use the map. -/

namespace Sys2Proof.Machine

/-- The remote registers that the source gives an address (R52). -/
inductive RemoteReg where
  | angleSet
  | forceSet
  | speedSet
  | posAct
  | angleAct
  | forceAct
  | current
  | error
  | status
  | temp
  | clearError
  | save
  | resetPara
  | forceSensorCalib
  deriving DecidableEq, Repr

/-- How the driver may use a remote register (R52). -/
inductive RemoteAccess where
  | writable
  | readOnly
  | commandWrite
  deriving DecidableEq, Repr

/-- How many registers a remote quantity has and how fingers lie in them (R52). -/
inductive RemoteLayout where
  /-- six registers, one finger each -/
  | fullWidth
  /-- three registers, two fingers each -/
  | packed
  /-- one register -/
  | single
  deriving DecidableEq, Repr

/-- The rows of R52: name, address (in decimal, as the source gives it), access and layout. -/
def remoteMap : List (RemoteReg × String × Half × RemoteAccess × RemoteLayout) :=
  [ (.angleSet, "ANGLE_SET", 1486, .writable, .fullWidth),
    (.forceSet, "FORCE_SET", 1498, .writable, .fullWidth),
    (.speedSet, "SPEED_SET", 1522, .writable, .fullWidth),
    (.posAct, "POS_ACT", 1534, .readOnly, .fullWidth),
    (.angleAct, "ANGLE_ACT", 1546, .readOnly, .fullWidth),
    (.forceAct, "FORCE_ACT", 1582, .readOnly, .fullWidth),
    (.current, "CURRENT", 1594, .readOnly, .fullWidth),
    (.error, "ERROR", 1606, .readOnly, .packed),
    (.status, "STATUS", 1612, .readOnly, .packed),
    (.temp, "TEMP", 1618, .readOnly, .packed),
    (.clearError, "CLEAR_ERROR", 1004, .commandWrite, .single),
    (.save, "SAVE", 1005, .commandWrite, .single),
    (.resetPara, "RESET_PARA", 1006, .commandWrite, .single),
    (.forceSensorCalib, "FORCE_SENSOR_CALIB", 1009, .commandWrite, .single) ]

/-- The address of a remote register named by its row's name (R52). -/
def remoteAddress (name : List Char) : Option Half :=
  (remoteMap.find? fun row => row.2.1.toList == name).map fun row => row.2.2.1

/-- The fingers, in the numbering of R53. The sentinel ALL = 6 is "never a register offset" and is no finger. -/
inductive Finger where
  | little
  | ring
  | middle
  | index
  | thumbBend
  | thumbRotate
  deriving DecidableEq, Repr

/-- The number of a finger (R53). -/
def Finger.number : Finger → Nat
  | .little => 0
  | .ring => 1
  | .middle => 2
  | .index => 3
  | .thumbBend => 4
  | .thumbRotate => 5

/-- The register of a finger in a full-width quantity: `base + 2*f` (R53). -/
def fingerAddress (base : Half) (f : Finger) : Half := base + BitVec.ofNat 16 (2 * f.number)

/-- The byte of a finger in the words of a packed read: low byte for an even finger, high byte for an odd one
(R54, conflict C2). `none` where the words read are too few. -/
def packedFinger (ws : List Half) (f : Finger) : Option Byte :=
  ws[f.number / 2]?.map fun w => if f.number % 2 = 0 then loByte w else hiByte w

/-- The remote finger status (R55). The numbers 1 to 3 are the spec's own reading (N13, log entry 11). -/
inductive FingerStatus where
  | unclenching
  | grasping
  | reachedTarget
  | reachedForce
  | currentProtection
  | lockedRotor
  | fault
  /-- value 4 and every undocumented code -/
  | other (code : Byte)
  deriving DecidableEq, Repr

/-- A status byte read by R55: every byte is accepted. -/
def fingerStatusOf (b : Byte) : FingerStatus :=
  match b.toNat with
  | 0 => .unclenching
  | 1 => .grasping
  | 2 => .reachedTarget
  | 3 => .reachedForce
  | 5 => .currentProtection
  | 6 => .lockedRotor
  | 7 => .fault
  | _ => .other b

/-- The error bits of a finger (R55). -/
inductive FingerError where
  | lockedRotor
  | overTemperature
  | overCurrent
  | abnormalOperation
  | communicationError
  deriving DecidableEq, Repr

/-- The bit of an error in the bitmask (R55). -/
def FingerError.bit : FingerError → Nat
  | .lockedRotor => 0
  | .overTemperature => 1
  | .overCurrent => 2
  | .abnormalOperation => 3
  | .communicationError => 4

/-- The errors set in a bitmask; several may be set at once (R55). -/
def fingerErrorsOf (b : Byte) : List FingerError :=
  [FingerError.lockedRotor, .overTemperature, .overCurrent, .abnormalOperation, .communicationError].filter
    fun e => b.getLsbD e.bit

end Sys2Proof.Machine
end

