-- ==== Sys2Proof/Machine/Assembler.lean ====
section
/-! DEFINITION. The pseudo-instructions with their expansions (R71), and the assembler syntax of a line (R70). Notation
only (D28): the unit sees nothing but the command words. -/

namespace Sys2Proof.Machine

/-! ### Pseudo-instructions -/

/-- The pseudo-instructions; no other exists (R71). -/
inductive Pseudo where
  | crcOf (bs : List Byte)
  | crcBytes (bs : List Byte)
  | rxFrame (bs : List Byte)
  | reqRead (slave : Byte) (addr count : Half)
  | reqWrite1 (slave : Byte) (addr value : Half)
  | reqWriteN (slave : Byte) (addr : Half) (values : List Half)
  | decAck1
  | decAckN
  deriving DecidableEq, Repr

/-- The commands of an expansion, in order (R71). -/
def Pseudo.expansion : Pseudo → List Instr
  | .crcOf bs => .crcInit :: bs.map .crcByte
  | .crcBytes bs => bs.map .crcByte
  | .rxFrame bs => .rxStart :: bs.map .rxByte
  | .reqRead slave addr count => [.setSlave slave, .setAddr addr, .setArg count, .encRead]
  | .reqWrite1 slave addr value => [.setSlave slave, .setAddr addr, .setArg value, .encWrite1]
  | .reqWriteN slave addr values =>
    [.setSlave slave, .setAddr addr, .valClear] ++ values.map .valPush ++ [.encWriteN]
  | .decAck1 => [.decAck 0x06]
  | .decAckN => [.decAck 0x10]

/-- The list forms take 1 to 263 bytes (RX.FRAME) or 1 to 127 values (REQ.WRITEN); CRC.OF and CRC.BYTES any number
(R71). -/
def Pseudo.admitted : Pseudo → Bool
  | .rxFrame bs => decide (1 ≤ bs.length ∧ bs.length ≤ 263)
  | .reqWriteN _ _ values => decide (1 ≤ values.length ∧ values.length ≤ 127)
  | _ => true

/-- The expansion of an admitted pseudo-instruction; `none` is an assembly error (R71). -/
def Pseudo.expand (p : Pseudo) : Option (List Instr) :=
  if p.admitted then some p.expansion else none

/-! ### Operands of a line -/

/-- A value that does not fit the field is an assembly error, never truncated (R70): a byte. -/
def fitByte (n : Nat) : Option Byte := if n < 2 ^ 8 then some (BitVec.ofNat 8 n) else none

/-- A value that does not fit the field is an assembly error, never truncated (R70): a 16-bit value. -/
def fitHalf (n : Nat) : Option Half := if n < 2 ^ 16 then some (BitVec.ofNat 16 n) else none

/-- The value of a digit below `base`. -/
def digitValue (base : Nat) (c : Char) : Option Nat :=
  let v :=
    if '0' ≤ c ∧ c ≤ '9' then c.toNat - '0'.toNat
    else if 'a' ≤ c ∧ c ≤ 'f' then c.toNat - 'a'.toNat + 10
    else if 'A' ≤ c ∧ c ≤ 'F' then c.toNat - 'A'.toNat + 10
    else base
  if v < base then some v else none

/-- Digits read from the left, after the value `acc` of those before. -/
def digitsFrom (base acc : Nat) : List Char → Option Nat
  | [] => some acc
  | c :: cs => (digitValue base c).bind fun v => digitsFrom base (acc * base + v) cs

/-- A non-empty number in a base. -/
def numberIn (base : Nat) (cs : List Char) : Option Nat :=
  if cs = [] then none else digitsFrom base 0 cs

/-- An operand: decimal, hexadecimal with `0x`, or a name from the remote register map (R70). -/
def operandValue (cs : List Char) : Option Nat :=
  match cs with
  | '0' :: 'x' :: hex => numberIn 16 hex
  | _ =>
    match numberIn 10 cs with
    | some n => some n
    | none => (remoteAddress cs).map BitVec.toNat

/-! ### A line -/

/-- White space inside a line. -/
def isBlank (c : Char) : Bool := c == ' ' || c == '\t' || c == '\r'

/-- Text without the white space around it. -/
def trimBlanks (cs : List Char) : List Char :=
  ((cs.dropWhile isBlank).reverse.dropWhile isBlank).reverse

/-- Text cut at every occurrence of a separator. -/
def cutAt (sep : Char) : List Char → List (List Char)
  | [] => [[]]
  | c :: cs =>
    match cutAt sep cs with
    | [] => [[]]
    | part :: parts => if c = sep then [] :: part :: parts else (c :: part) :: parts

/-- A comment runs from `;` to the end of the line (R70). -/
def withoutComment (line : List Char) : List Char := line.takeWhile (· != ';')

/-- A mnemonic is written in upper or lower case (R70). -/
def spells (word : List Char) (name : String) : Bool :=
  word == name.toList || word == name.toList.map Char.toLower

/-- What a mnemonic makes of its operand values: commands of R66, then the pseudo-instructions of R71. -/
def mnemonicTable : List (String × (List Nat → Option (List Instr))) :=
  let n (i : Instr) (vs : List Nat) : Option (List Instr) :=
    match vs with
    | [] => some [i]
    | _ => none
  let b (i : Byte → Instr) (vs : List Nat) : Option (List Instr) :=
    match vs with
    | [v] => (fitByte v).map fun x => [i x]
    | _ => none
  let h (i : Half → Instr) (vs : List Nat) : Option (List Instr) :=
    match vs with
    | [v] => (fitHalf v).map fun x => [i x]
    | _ => none
  let bytes (p : List Byte → Pseudo) (vs : List Nat) : Option (List Instr) :=
    (vs.mapM fitByte).bind fun bs => (p bs).expand
  let request (p : Byte → Half → List Half → Option Pseudo) (vs : List Nat) : Option (List Instr) :=
    match vs with
    | s :: a :: rest =>
      (fitByte s).bind fun s => (fitHalf a).bind fun a => (rest.mapM fitHalf).bind fun vs =>
        (p s a vs).bind Pseudo.expand
    | _ => none
  let one (p : Byte → Half → Half → Pseudo) (s : Byte) (a : Half) (vs : List Half) : Option Pseudo :=
    match vs with
    | [v] => some (p s a v)
    | _ => none
  let fixed (p : Pseudo) (vs : List Nat) : Option (List Instr) :=
    match vs with
    | [] => p.expand
    | _ => none
  [ ("CRC.INIT", n .crcInit), ("CRC.BYTE", b .crcByte), ("RX.START", n .rxStart), ("RX.BYTE", b .rxByte),
    ("RX.CHECK", n .rxCheck), ("SET.SLAVE", b .setSlave), ("SET.ADDR", h .setAddr), ("SET.ARG", h .setArg),
    ("VAL.PUSH", h .valPush), ("VAL.CLEAR", n .valClear), ("ENC.READ", n .encRead), ("ENC.WRITE1", n .encWrite1),
    ("ENC.WRITEN", n .encWriteN), ("DEC.READ", n .decRead), ("DEC.ACK", b .decAck),
    ("CRC.OF", bytes .crcOf), ("CRC.BYTES", bytes .crcBytes), ("RX.FRAME", bytes .rxFrame),
    ("REQ.READ", request (one .reqRead)), ("REQ.WRITE1", request (one .reqWrite1)),
    ("REQ.WRITEN", request fun s a vs => some (.reqWriteN s a vs)),
    ("DEC.ACK1", fixed .decAck1), ("DEC.ACKN", fixed .decAckN) ]

/-- The commands of one line; a line that holds nothing but white space and a comment has none, and `none` is an
assembly error (R70, R71). -/
def parseLine (line : List Char) : Option (List Instr) :=
  let text := trimBlanks (withoutComment line)
  let word := text.takeWhile fun c => !isBlank c
  let rest := trimBlanks (text.drop word.length)
  if text = [] then some []
  else
    (mnemonicTable.find? fun row => spells word row.1).bind fun row =>
      (if rest = [] then some [] else ((cutAt ',' rest).map trimBlanks).mapM operandValue).bind row.2

/-- The command words of one line (R70). -/
def assembleLine (line : List Char) : Option (List Word) := (parseLine line).map fun is => is.map encode

/-- The command words of a program, one command on each line (R70). -/
def assembleProgram (text : List Char) : Option (List Word) :=
  ((cutAt '\n' text).mapM assembleLine).map List.flatten

end Sys2Proof.Machine
end

