-- ==== Sys2Proof/Machine/Instances.lean ====
section
/-! DEFINITION. Several units side by side, each with its own state and its own host (R39, R114). -/

namespace Sys2Proof.Machine

/-- One step of unit `k` of several: the others keep their states (R39). -/
def stepInstance (k : Nat) (units : List State) : List State :=
  match units[k]? with
  | none => units
  | some s =>
    match step s with
    | .next t => units.set k t
    | .fault _ => units
    | .refused _ => units

end Sys2Proof.Machine
end

