-- ==== Sys2Proof/Safety.lean ====
section
/-! DEFINITION. What a legal state is (R37), and runs of commands (R126), in the terms the statements use. -/

namespace Sys2Proof.Safety

open Sys2Proof.Machine

/-- The state invariants of R37, clause by clause. -/
structure Legal (s : State) : Prop where
  rx_fits : s.rx.length ≤ 263
  vals_fit : s.vals.length ≤ 127
  tx_fits : s.tx.length ≤ 263
  words_fit : s.words.length ≤ 127
  tx_valid_iff : s.txValid = true ↔ s.tx ≠ []
  words_empty : s.wordsValid = false → s.words = []
  result_legal : s.result.toNat ≤ 9

/-- A sequence of commands performed one after the other, each on the state the one before left (R56); it stops at the
first fault or refusal, if there is one. -/
def runInstrs : List Instr → State → Host.Outcome State Fault Refusal
  | [], s => .next s
  | i :: is, s =>
    match exec i s with
    | .next t => runInstrs is t
    | .fault r => .fault r
    | .refused r => .refused r

/-- A sequence of command words written to the command port of a unit with or without the framer (R8, R67). -/
def runWordsWith (hasFramer : Bool) : List Word → State → Host.Outcome State Fault Refusal
  | [], s => .next s
  | w :: ws, s =>
    match issueWith hasFramer w s with
    | .next t => runWordsWith hasFramer ws t
    | .fault r => .fault r
    | .refused r => .refused r

/-- The framer's fields stand at their reset values (R38, R115). -/
structure FramerAtReset (s : State) : Prop where
  txValid : s.txValid = false
  wordsValid : s.wordsValid = false
  slave : s.slave = none
  addr : s.addr = none
  arg : s.arg = none
  vals : s.vals = []
  tx : s.tx = []
  words : s.words = []

/-- The encoder commands (R94, R95, R96). -/
def isEncoder : Instr → Bool
  | .encRead => true
  | .encWrite1 => true
  | .encWriteN => true
  | _ => false

/-- The commands that check the RX buffer (R85, R99, R100). -/
def isCheck : Instr → Bool
  | .rxCheck => true
  | .decRead => true
  | .decAck _ => true
  | _ => false

/-- RX.BYTE with any operand (R84). -/
def isRxByte : Instr → Bool
  | .rxByte _ => true
  | _ => false

/-- The unit's own fields agree (R18): nothing is said of the host's side of the run. -/
structure SameUnit (s t : State) : Prop where
  crc : t.crc = s.crc
  result : t.result = s.result
  crcOk : t.crcOk = s.crcOk
  rxOvf : t.rxOvf = s.rxOvf
  rx : t.rx = s.rx
  txValid : t.txValid = s.txValid
  wordsValid : t.wordsValid = s.wordsValid
  slave : t.slave = s.slave
  addr : t.addr = s.addr
  arg : t.arg = s.arg
  vals : t.vals = s.vals
  tx : t.tx = s.tx
  words : t.words = s.words

end Sys2Proof.Safety
end

