-- ==== Sys2Proof/Certificates/Slice0/Obligations.lean ====
section
/-! DEFINITION. The statements for the provers, each drawn from the rules its docstring cites. Numbers stand where the
spec gives numbers (263, 127, result codes), not the model's names for them. `{ s with … }` in a conclusion says the
whole next state: every field not named is unchanged. An equation for `encode` is the rule's "Encoding" line, opcode,
"must be 0" bits and operand in their places; `DecodeOfEncodeIsTheCommand` turns it into the decoding of that word. -/

open Sys2Proof Sys2Proof.Machine Sys2Proof.Safety

/-! ### Encoding (spec/30_encoding.md) -/

/-- Decoding an encoded command gives the command back, for every command of a unit with or without the framer and
every operand value (R65 to R67). -/
def Obligations.DecodeOfEncodeIsTheCommand : Prop :=
  ∀ (hasFramer : Bool) (i : Instr), i.wfWith hasFramer = true → decodeWith hasFramer (encode i) = i

/-- R67: "Every one of the 2^32 words decodes to exactly one command or to `Illegal`": what a word decodes to is
well-formed, encodes to that word, and is the only well-formed command that does. -/
def Obligations.EveryWordIsExactlyOneCommandOrIllegal : Prop :=
  ∀ (hasFramer : Bool) (w : Word),
    (decodeWith hasFramer w).wfWith hasFramer = true ∧ encode (decodeWith hasFramer w) = w ∧
      ∀ i : Instr, i.wfWith hasFramer = true → encode i = w → i = decodeWith hasFramer w

/-- R66: a row whose `(w & mask) = match` holds, and which exists on the unit, selects its command. R67 to R69: a word
that no such row selects is illegal; that it decodes to the illegal command of that very word is the model's choice (log
entry 14). That no word is selected by two rows is derived from the map. -/
def Obligations.OpcodeMapSelectsTheCommand : Prop :=
  ∀ (hasFramer : Bool) (w : Word),
    (∀ r ∈ opcodeRows, r.selects w = true → (r.framer = true → hasFramer = true) →
      (decodeWith hasFramer w).mnemonic = r.name) ∧
    ((∀ r ∈ opcodeRows, r.selects w = true → r.framer = true ∧ hasFramer = false) →
      decodeWith hasFramer w = .illegal w) ∧
    opcodeRows.Pairwise fun r q => ¬(r.selects w = true ∧ q.selects w = true)

/-- Words the spec writes out (R66, R70, 95_test_vectors.md 2.1) decode to the commands it says. -/
def Obligations.WordsOfTheSpecDecodeAsItSays : Prop :=
  decode 0x10000000 = .crcInit ∧ decode 0x20000001 = .crcByte 0x01 ∧ decode 0x50000000 = .rxCheck ∧
  decode 0x700005CE = .setAddr 0x05CE ∧ decode 0x800003E8 = .setArg 1000 ∧ decode 0xD0000000 = .encWriteN ∧
  decode 0xF0000010 = .decAck 0x10 ∧ decode 0x00000000 = .illegal 0 ∧ decode 0x10000001 = .illegal 0x10000001 ∧
  decode 0x70010000 = .illegal 0x70010000 ∧ decodeWith false 0x60000001 = .illegal 0x60000001

/-- R68: a word with opcode 0x0, with a nonzero "must be 0" bit, or with a framer opcode on a unit without the framer,
writes `IllegalCommand` (9) to `result` and changes no other field. -/
def Obligations.IllegalWordWritesOnlyIllegalCommand : Prop :=
  (∀ (hasFramer : Bool) (w : Word) (s : State),
    (w.extractLsb' 28 4 = 0x0 ∨
      (w.extractLsb' 28 4 ∈ [0x1, 0x3, 0x5, 0xA, 0xB, 0xC, 0xD, 0xE] ∧ w.extractLsb' 0 28 ≠ 0) ∨
      (w.extractLsb' 28 4 ∈ [0x2, 0x4, 0x6, 0xF] ∧ w.extractLsb' 8 20 ≠ 0) ∨
      (w.extractLsb' 28 4 ∈ [0x7, 0x8, 0x9] ∧ w.extractLsb' 16 12 ≠ 0) ∨
      (6 ≤ (w.extractLsb' 28 4).toNat ∧ hasFramer = false)) →
    issueWith hasFramer w s = .next { s with result := 9 }) ∧
  ∀ (w : Word) (s : State), exec (.illegal w) s = .next { s with result := 9 }

/-- A word is carried over a byte-wide bus as its four bytes in the order `o`, byte `k` being bits `8k+7 : 8k`; the byte
decoder reads them as the command of that word and leaves the rest of the stream; fewer than four bytes are no command
word (R46, R48). The order is the open parameter CMD_BYTE_ORDER, taken as an argument (log entry 9). -/
def Obligations.CommandWordSurvivesAnyByteOrder : Prop :=
  (∀ (o : Config.CmdByteOrder) (w : Word), serialiseWord o w =
    [o.first, o.second, o.third, o.fourth].map fun k => w.extractLsb' (8 * k.val) 8) ∧
  (∀ (o : Config.CmdByteOrder) (w : Word) (rest : List Byte), o.wf →
    decodeBytes o (serialiseWord o w ++ rest) = some (decode w, rest)) ∧
  ∀ (o : Config.CmdByteOrder) (bs : List Byte), bs.length < 4 → decodeBytes o bs = none

/-- R71: the expansions of the pseudo-instructions, and the lengths the list forms admit. -/
def Obligations.PseudoInstructionsExpandExactly : Prop :=
  (∀ bs, Pseudo.expand (.crcOf bs) = some (.crcInit :: bs.map .crcByte)) ∧
  (∀ bs, Pseudo.expand (.crcBytes bs) = some (bs.map .crcByte)) ∧
  (∀ bs, Pseudo.expand (.rxFrame bs) =
    if bs.length = 0 ∨ 263 < bs.length then none else some (.rxStart :: bs.map .rxByte)) ∧
  (∀ s a n, Pseudo.expand (.reqRead s a n) = some [.setSlave s, .setAddr a, .setArg n, .encRead]) ∧
  (∀ s a v, Pseudo.expand (.reqWrite1 s a v) = some [.setSlave s, .setAddr a, .setArg v, .encWrite1]) ∧
  (∀ s a vs, Pseudo.expand (.reqWriteN s a vs) =
    if vs.length = 0 ∨ 127 < vs.length then none
    else some (.setSlave s :: .setAddr a :: .valClear :: (vs.map .valPush ++ [.encWriteN]))) ∧
  Pseudo.expand .decAck1 = some [.decAck 0x06] ∧ Pseudo.expand .decAckN = some [.decAck 0x10]

/-! ### The step, the read port and reset (spec/00, 10, 20, 70) -/

/-- A step takes the host's oldest action: a command word is decoded and performed on the state without that action; a
read notes a value and changes nothing else; a reset is taken; with no action pending the machine waits. The list of
actions is the model's own (log entries 1, 2 and 4). -/
def Obligations.StepPerformsTheHostsNextAction : Prop :=
  (∀ (s : State) (w : Word) (rest : List HostAction), s.pending = .command w :: rest →
    step s = exec (decode w) { s with pending := rest }) ∧
  (∀ (s : State) (a : Half) (rest : List HostAction), s.pending = .read a :: rest →
    step s = .next { s with
      pending := rest, observed := s.observed ++ [readValue s a], draws := s.draws + 1 }) ∧
  (∀ (s : State) (rest : List HostAction), s.pending = .reset :: rest →
    step s = .next (performReset { s with pending := rest })) ∧
  (∀ s : State, s.pending = [] → step s = .next s) ∧
  ∀ (s : State) (nbits w : Nat), nbits ≤ 32 → w < 2 ^ nbits →
    decodeTableWord nbits w = some (decode (BitVec.ofNat 32 w)) ∧
      step (s.withFetchWord nbits w) = exec (decode (BitVec.ofNat 32 w)) s

/-- A sequence of command words that the host writes is performed one at a time, in the order issued, each command on
the state that all earlier ones left (R56). The list of actions is the model's own (log entry 1). -/
def Obligations.CommandsTakeEffectInIssueOrder : Prop :=
  ∀ (ws : List Word) (s : State),
    Sys2Proof.core.run ws.length { s with pending := ws.map .command } =
      runInstrs (ws.map decode) { s with pending := [] }

/-- R41: the read-port map, row by row; `none` is an unspecified value. -/
def Obligations.ReadPortMap : Prop :=
  ∀ (hasFramer : Bool) (s : State),
    readPortWith hasFramer s 0x000 = some s.crc ∧
    readPortWith hasFramer s 0x001 = some (statusWith hasFramer s) ∧
    readPortWith hasFramer s 0x002 = (if hasFramer then s.slave.map (fun v => v.setWidth 16) else none) ∧
    readPortWith hasFramer s 0x003 = (if hasFramer then s.addr else none) ∧
    readPortWith hasFramer s 0x004 = (if hasFramer then s.arg else none) ∧
    readPortWith hasFramer s 0x005 = (if hasFramer then some (BitVec.ofNat 16 s.vals.length) else none) ∧
    readPortWith hasFramer s 0x006 = some (BitVec.ofNat 16 s.rx.length) ∧
    readPortWith hasFramer s 0x007 = (if hasFramer then some (BitVec.ofNat 16 s.tx.length) else none) ∧
    readPortWith hasFramer s 0x008 = (if hasFramer then some (BitVec.ofNat 16 s.words.length) else none) ∧
    readPortWith hasFramer s 0x009 = some (configWith hasFramer) ∧
    (∀ i < 127, readPortWith hasFramer s (BitVec.ofNat 16 (0x100 + i)) = if hasFramer then s.vals[i]? else none) ∧
    (∀ i < 263, readPortWith hasFramer s (BitVec.ofNat 16 (0x200 + i)) = s.rx[i]?.map (fun v => v.setWidth 16)) ∧
    (∀ i < 263, readPortWith hasFramer s (BitVec.ofNat 16 (0x400 + i)) =
      if hasFramer then s.tx[i]?.map (fun v => v.setWidth 16) else none) ∧
    (∀ i < 127, readPortWith hasFramer s (BitVec.ofNat 16 (0x600 + i)) = if hasFramer then s.words[i]? else none) ∧
    ∀ a : Half, 0x009 < a.toNat → ¬(0x100 ≤ a.toNat ∧ a.toNat ≤ 0x17E) → ¬(0x200 ≤ a.toNat ∧ a.toNat ≤ 0x306) →
      ¬(0x400 ≤ a.toNat ∧ a.toNat ≤ 0x506) → ¬(0x600 ≤ a.toNat ∧ a.toNat ≤ 0x67E) →
      readPortWith hasFramer s a = none

/-- Once a reset has been seen, the host's reads follow the map of R41 for a unit with the framer. Reads, however many
and at whatever indices, change no field of the unit, return one value each, and return the map's value wherever it is
specified (R41, R42, R16). What an unspecified read returns is a free value (log entry 4), and nothing is said of it; the
flag that says whether a reset was seen is the model's own (log entry 5). -/
def Obligations.ReadsHaveNoSideEffect : Prop :=
  (∀ (s : State) (a : Half), s.resetSeen = true → readPort s a = readPortWith true s a) ∧
  ∀ (as : List Half) (s : State), ∃ t vs,
    Sys2Proof.core.run as.length { s with pending := as.map .read } = .next t ∧
    SameUnit s t ∧ t.pending = [] ∧ t.resetSeen = s.resetSeen ∧ t.observed = s.observed ++ vs ∧
    vs.length = as.length ∧
    ∀ (k : Nat) (a v : Half), s.resetSeen = true → as[k]? = some a → readPortWith true s a = some v →
      vs[k]? = some v

/-- R20: STATUS, at read-port index 0x001, bit by bit, with the framer and without it; it is 0 after reset. -/
def Obligations.StatusIsAssembledFromItsFields : Prop :=
  (∀ (hasFramer : Bool) (s : State), readPortWith hasFramer s 0x001 = some (statusWith hasFramer s)) ∧
  (∀ hasFramer : Bool, statusWith hasFramer State.reset = 0x0000) ∧
  ∀ (hasFramer : Bool) (s : State) (k : Nat),
    (statusWith hasFramer s).getLsbD k =
      if k ≤ 3 then s.result.getLsbD k
      else if k = 4 then s.crcOk
      else if k = 5 then s.rxOvf
      else if k = 6 then hasFramer && s.txValid
      else if k = 7 then hasFramer && s.wordsValid
      else if k = 8 then hasFramer && s.slave.isSome
      else if k = 9 then hasFramer && s.addr.isSome
      else if k = 10 then hasFramer && s.arg.isSome
      else false

/-- R26: CONFIG reads `HAS_FRAMER` in bit 0 and zero in bits 15:1 in every state. -/
def Obligations.ConfigIsAConstant : Prop :=
  ∀ (hasFramer : Bool) (s : State), ∃ v,
    readPortWith hasFramer s 0x009 = some v ∧ ∀ k, v.getLsbD k = (decide (k = 0) && hasFramer)

/-- R115: reset sets every field at once, whatever the state before; STATUS then reads 0x0000, CONFIG reads `HAS_FRAMER`
in bit 0, and the operand and buffer indices are unspecified. -/
def Obligations.ResetSetsEveryField : Prop :=
  ∀ (hasFramer : Bool) (s : State) (rest : List HostAction), s.pending = .reset :: rest → ∃ t, step s = .next t ∧
    t.crc = 0xFFFF ∧ t.result = 0 ∧ t.crcOk = false ∧ t.rxOvf = false ∧ t.rx = [] ∧ t.txValid = false ∧
    t.wordsValid = false ∧ t.slave = none ∧ t.addr = none ∧ t.arg = none ∧ t.vals = [] ∧ t.tx = [] ∧ t.words = [] ∧
    readPortWith hasFramer t 0x001 = some 0x0000 ∧
    readPortWith hasFramer t 0x009 = some (if hasFramer then 0x0001 else 0x0000) ∧
    readPortWith hasFramer t 0x002 = none ∧ readPortWith hasFramer t 0x003 = none ∧
    readPortWith hasFramer t 0x004 = none ∧
    ∀ a : Half, 0x100 ≤ a.toNat → readPortWith hasFramer t a = none

/-- Before the first reset every read is unspecified, whatever the state holds, and the first reset leads from power-on
to the reset state (R117, R115). The state at power-on is free values (log entry 5), and nothing is said of them. -/
def Obligations.PowerOnIsUnspecifiedUntilReset : Prop :=
  (∀ (s : State) (a : Half), s.resetSeen = false → readPort s a = none) ∧
  ∀ rest : List HostAction, (State.powerOn (.reset :: rest)).resetSeen = false ∧
    step (State.powerOn (.reset :: rest)) = .next { State.reset with pending := rest }

/-! ### The whole machine -/

/-- The state invariants of R37 hold at reset. -/
def Obligations.ResetStateIsLegal : Prop :=
  Legal State.reset ∧ ∀ s : State, Legal (performReset s)

/-- From every legal state a step answers a next state, and that state is legal: the seven clauses of R37 are kept by
every command, read and reset. -/
def Obligations.EveryStepKeepsTheStateLegal : Prop :=
  ∀ s : State, Legal s → ∃ t, step s = .next t ∧ Legal t

/-- "Once `rx_ovf = 1`, every further RX.BYTE also drops its byte" (R84) rests on this: the buffer is full while the
overflow bit is set. It holds at reset and every step keeps it. -/
def Obligations.OverflowBitMeansFullBuffer : Prop :=
  (State.reset.rxOvf = true → State.reset.rx.length = 263) ∧
  ∀ s t : State, s.rx.length ≤ 263 → (s.rxOvf = true → s.rx.length = 263) → step s = .next t →
    t.rx.length ≤ 263 ∧ (t.rxOvf = true → t.rx.length = 263)

/-- "The unit never stops by itself, never hangs and never faults" (R126): from ANY state, any number of steps answers
a next state, takes exactly that many of the host's actions, and returns exactly one value for each read among them. -/
def Obligations.NoRunEverStops : Prop :=
  ∀ (n : Nat) (s : State), ∃ t, Sys2Proof.core.run n s = .next t ∧ t.pending = s.pending.drop n ∧
    t.observed.length =
      s.observed.length + (s.pending.take n).countP (fun a => match a with | .read _ => true | _ => false)

/-- R21: every command writes `result`, with one of the codes 0 to 9, and the value it held before has no part in
anything the command does: the field is not sticky. It is 0 after reset. -/
def Obligations.EveryCommandWritesALegalResult : Prop :=
  State.reset.result = 0 ∧
  ∀ (i : Instr) (s : State), (∃ t, exec i s = .next t ∧ t.result.toNat ≤ 9) ∧
    ∀ r : BitVec 4, exec i { s with result := r } = exec i s

/-- Only the commands that a field's rule names write it (R19, R22 to R25, R28 to R30, R32 to R35); no command touches
the host's side of the run. -/
def Obligations.OnlyTheNamedCommandsWriteAField : Prop :=
  ∀ (i : Instr) (s t : State), exec i s = .next t →
    (i ≠ .crcInit → (∀ b, i ≠ .crcByte b) → t.crc = s.crc) ∧
    (i ≠ .rxStart → isCheck i = false → t.crcOk = s.crcOk) ∧
    (i ≠ .rxStart → (∀ b, i ≠ .rxByte b) → t.rxOvf = s.rxOvf ∧ t.rx = s.rx) ∧
    (isEncoder i = false → t.txValid = s.txValid ∧ t.tx = s.tx) ∧
    (i ≠ .decRead → t.wordsValid = s.wordsValid ∧ t.words = s.words) ∧
    ((∀ v, i ≠ .setSlave v) → t.slave = s.slave) ∧
    ((∀ v, i ≠ .setAddr v) → t.addr = s.addr) ∧
    ((∀ v, i ≠ .setArg v) → t.arg = s.arg) ∧
    ((∀ v, i ≠ .valPush v) → i ≠ .valClear → t.vals = s.vals) ∧
    t.pending = s.pending ∧ t.observed = s.observed ∧ t.draws = s.draws ∧ t.resetSeen = s.resetSeen

/-- R105: a failing command performs exactly its failure effects and writes nothing else: `result` always; `crc_ok` for
the checks; `tx` and `tx_valid` for the encoders; `words` and `words_valid` for DEC.READ; `rx_ovf` for RX.BYTE. R92: a
failing encoder leaves no frame behind. -/
def Obligations.FailingCommandWritesOnlyItsFailureEffects : Prop :=
  ∀ (i : Instr) (s t : State), exec i s = .next t → t.result ≠ 0 →
    t = { s with
      result := t.result
      crcOk := if isCheck i then t.crcOk else s.crcOk
      txValid := if isEncoder i then false else s.txValid
      tx := if isEncoder i then [] else s.tx
      wordsValid := if i = .decRead then false else s.wordsValid
      words := if i = .decRead then [] else s.words
      rxOvf := if isRxByte i then true else s.rxOvf }

/-- Commands other than CRC.INIT and CRC.BYTE neither write the CRC register nor are affected by it (R19, R123). -/
def Obligations.FramerAndValidatorIgnoreTheCrcRegister : Prop :=
  ∀ (i : Instr) (s t : State) (c : Half), i ≠ .crcInit → (∀ b, i ≠ .crcByte b) → exec i s = .next t →
    t.crc = s.crc ∧ exec i { s with crc := c } = .next { t with crc := c }

/-- Issuing an encoder or a check a second time, with nothing in between, changes nothing at all: the same frame is
built, the same outcome recorded (R50, R107). -/
def Obligations.ReissuedEncoderOrCheckChangesNothing : Prop :=
  ∀ (i : Instr) (s t : State), isEncoder i = true ∨ isCheck i = true → exec i s = .next t → exec i t = .next t

/-- R38: on a unit without the framer, the framer's fields keep their reset values forever, whatever words are
written. -/
def Obligations.WithoutTheFramerItsFieldsStayAtReset : Prop :=
  ∀ (ws : List Word) (s : State), FramerAtReset s → ∃ t, runWordsWith false ws s = .next t ∧ FramerAtReset t

/-- R39: a step of one unit changes no other unit. -/
def Obligations.UnitsShareNoState : Prop :=
  ∀ (units : List State) (k j : Nat) (s t : State), units[k]? = some s → step s = .next t →
    (stepInstance k units)[k]? = some t ∧ (j ≠ k → (stepInstance k units)[j]? = units[j]?)

/-! ### CRC engine (spec/40_crc.md) -/

/-- R74 and R43: a frame is the message followed by its CRC, bits 7:0 first, then bits 15:8; two bytes longer. R73: the
CRC is a left fold of `crc16_step` from 0xFFFF. -/
def Obligations.FrameEndsWithItsCrcLowByteFirst : Prop :=
  crc16 [] = 0xFFFF ∧
  (∀ (bs : List Byte) (b : Byte), crc16 (bs ++ [b]) = crc16Step (crc16 bs) b) ∧
  ∀ m : List Byte,
    appendCrc m = m ++ [(crc16 m).extractLsb' 0 8, (crc16 m).extractLsb' 8 8] ∧
    (appendCrc m).length = m.length + 2

/-- R75: CRC.INIT sets `crc` to 0xFFFF and `result` to OK, and touches nothing else; its word is 0x10000000, and a word
of its opcode with a nonzero bit below is illegal and does not perform it. -/
def Obligations.CrcInitStartsAtAllOnes : Prop :=
  encode .crcInit = 0x10000000 ∧
  (∀ s : State, exec .crcInit s = .next { s with crc := 0xFFFF, result := 0 }) ∧
  ∀ (w : Word) (s : State), w.extractLsb' 28 4 = 0x1 → w.extractLsb' 0 28 ≠ 0 →
    issue w s = .next { s with result := 9 }

/-- R76: CRC.BYTE folds its byte, any byte, into whatever `crc` holds, always OK, and touches nothing else. -/
def Obligations.CrcByteFoldsIntoTheRunningCrc : Prop :=
  (∀ b : Byte, encode (.crcByte b) = (0x2 : BitVec 4) ++ (0 : BitVec 20) ++ b) ∧
  ∀ (b : Byte) (s : State), exec (.crcByte b) s = .next { s with crc := crc16Step s.crc b, result := 0 }

/-- R76's corner cases, which the spec derives: after CRC.INIT and the bytes of a message, from any state, `crc` is the
CRC of the message; folding that CRC's own two bytes, low first, brings it to zero; without a CRC.INIT the bytes of two
messages give the CRC of their concatenation (R123). -/
def Obligations.CrcEngineComputesTheCrcOfAMessage : Prop :=
  (∀ (m : List Byte) (s : State),
    runInstrs (.crcInit :: m.map .crcByte) s = .next { s with crc := crc16 m, result := 0 }) ∧
  (∀ (m : List Byte) (s : State),
    runInstrs (.crcInit :: (appendCrc m).map .crcByte) s = .next { s with crc := 0x0000, result := 0 }) ∧
  ∀ (m n : List Byte) (s : State), s.crc = crc16 m → n ≠ [] →
    runInstrs (n.map .crcByte) s = .next { s with crc := crc16 (m ++ n), result := 0 }

/-- The CRC step, in three forms: R72's eight rounds with 0xA001 and no final XOR, a procedure the spec supplies from
general knowledge (G1; log entry 12); R80's check values, which tell it from every other CRC; and R77, a law the spec
derives: the byte-at-a-time form with the table `T[x] = crc16_step(0, x)`. -/
def Obligations.CrcStepByTable : Prop :=
  (let round (c : Half) : Half := if c.getLsbD 0 then (c >>> 1) ^^^ 0xA001 else c >>> 1
   ∀ (c : Half) (b : Byte), crc16Step c b =
    round (round (round (round (round (round (round (round (c ^^^ b.setWidth 16))))))))) ∧
  crc16 [0x31, 0x32, 0x33, 0x34, 0x35, 0x36, 0x37, 0x38, 0x39] = 0x4B37 ∧
  appendCrc [0x01, 0x03, 0x00, 0x00, 0x00, 0x0A] = [0x01, 0x03, 0x00, 0x00, 0x00, 0x0A, 0xC5, 0xCD] ∧
  crc16Step 0 0 = 0 ∧
  ∀ (c : Half) (b : Byte),
    crc16Step c b = (c >>> 8) ^^^ crc16Step 0 ((c ^^^ b.setWidth 16).extractLsb' 0 8)

/-- R78, a law the spec derives: the CRC over a whole frame is zero. -/
def Obligations.ResidueOfAFrameIsZero : Prop :=
  ∀ m : List Byte, crc16 (appendCrc m) = 0x0000

/-- R78 and R81, as the spec derives them: comparing the trailing bytes and testing for a zero CRC over the whole frame
agree on every list of bytes; and the valid ones are exactly the messages with their CRC appended. -/
def Obligations.ValidFrameIffZeroResidue : Prop :=
  ∀ f : List Byte,
    (crcValid f = true ↔ 2 ≤ f.length ∧ crc16 f = 0x0000) ∧
    (crcValid f = true ↔ ∃ m, f = appendCrc m)

/-- R79, a law whose argument the spec supplies from general knowledge (G5): changing exactly one byte of a valid frame,
at any position, the two CRC bytes included, makes it invalid. -/
def Obligations.SingleByteErrorIsDetected : Prop :=
  ∀ (f : List Byte) (k : Nat) (b : Byte), crcValid f = true → k < f.length → f[k]? ≠ some b →
    crcValid (f.set k b) = false

/-! ### Frame validator (spec/41_validator.md) -/

/-- R83: RX.START empties `rx` and clears `rx_ovf` and `crc_ok`; OK, and nothing else changes; its word is 0x30000000. -/
def Obligations.RxStartEmptiesTheBuffer : Prop :=
  encode .rxStart = 0x30000000 ∧
  ∀ s : State, exec .rxStart s = .next { s with rx := [], rxOvf := false, crcOk := false, result := 0 }

/-- R84: below 263 bytes RX.BYTE appends; at 263 it drops the byte, sets `rx_ovf` and completes with Overflow. Once
`rx_ovf` is 1, which it is only over a full buffer (`OverflowBitMeansFullBuffer`), no command but RX.START changes the
buffer or clears the bit. -/
def Obligations.RxByteAppendsOrOverflows : Prop :=
  (∀ b : Byte, encode (.rxByte b) = (0x4 : BitVec 4) ++ (0 : BitVec 20) ++ b) ∧
  (∀ (b : Byte) (s : State), s.rx.length < 263 →
    exec (.rxByte b) s = .next { s with rx := s.rx ++ [b], result := 0 }) ∧
  (∀ (b : Byte) (s : State), 263 ≤ s.rx.length →
    exec (.rxByte b) s = .next { s with rxOvf := true, result := 7 }) ∧
  ∀ (i : Instr) (s t : State), s.rxOvf = true → s.rx.length = 263 → i ≠ .rxStart → exec i s = .next t →
    t.rxOvf = true ∧ t.rx = s.rx

/-- A whole frame delivered after RX.START (R83, R84): the first 263 bytes stay, in arrival order; a longer delivery
ends with Overflow and the sticky bit set. -/
def Obligations.DeliveredFrameStandsInTheBuffer : Prop :=
  ∀ (m : List Byte) (s : State),
    runInstrs (.rxStart :: m.map .rxByte) s =
      .next { s with
        rx := m.take 263
        rxOvf := decide (263 < m.length)
        crcOk := false
        result := if 263 < m.length then 7 else 0 }

/-- R85: RX.CHECK's outcomes, the checks in its order; it never changes the buffer; its word is 0x50000000. -/
def Obligations.RxCheckOutcome : Prop :=
  encode .rxCheck = 0x50000000 ∧
  ∀ s : State, exec .rxCheck s = .next (
    if s.rxOvf then { s with result := 7, crcOk := false }
    else if s.rx.length < 4 then { s with result := 2, crcOk := false }
    else if crcValid s.rx then { s with result := 0, crcOk := true }
    else { s with result := 5, crcOk := false })

/-- R85's corner cases, which the spec derives: a buffer of two or three bytes is too short even where its CRC holds, as
that of `FF FF` and of `00 BF 40` does; and changing any one byte of a buffer that gives OK makes RX.CHECK give
CrcMismatch. -/
def Obligations.RxCheckRejectsShortAndCorruptedFrames : Prop :=
  (crcValid [0xFF, 0xFF] = true ∧ crcValid [0x00, 0xBF, 0x40] = true) ∧
  (∀ s : State, s.rxOvf = false → s.rx = [0xFF, 0xFF] ∨ s.rx = [0x00, 0xBF, 0x40] →
    exec .rxCheck s = .next { s with result := 2, crcOk := false }) ∧
  ∀ (s t : State) (k : Nat) (b : Byte), exec .rxCheck s = .next t → t.result = 0 → k < s.rx.length →
    s.rx[k]? ≠ some b → exec .rxCheck { s with rx := s.rx.set k b } =
      .next { s with rx := s.rx.set k b, result := 5, crcOk := false }

/-- R86, a law the spec derives: a message of 2 to 261 bytes, sent with its CRC byte by byte, passes RX.CHECK. -/
def Obligations.FramedMessagePassesTheValidator : Prop :=
  ∀ (m : List Byte) (s : State), 2 ≤ m.length → m.length ≤ 261 →
    runInstrs (.rxStart :: ((appendCrc m).map .rxByte ++ [.rxCheck])) s =
      .next { s with rx := appendCrc m, rxOvf := false, crcOk := true, result := 0 }

/-- R22: the checks write `crc_ok`: 1 exactly if the command reached the CRC comparison and it held; RX.START writes 0;
no other command writes it; it is 0 after reset. -/
def Obligations.CrcOkSaysTheComparisonHeld : Prop :=
  (∀ s t : State, exec .rxCheck s = .next t →
    (t.crcOk = true ↔ s.rxOvf = false ∧ 4 ≤ s.rx.length ∧ crcValid s.rx = true)) ∧
  (∀ s t : State, exec .decRead s = .next t →
    (t.crcOk = true ↔ s.slave ≠ none ∧ s.rxOvf = false ∧ 5 ≤ s.rx.length ∧ crcValid s.rx = true)) ∧
  (∀ (f : Byte) (s t : State), exec (.decAck f) s = .next t →
    (t.crcOk = true ↔ s.slave ≠ none ∧ s.rxOvf = false ∧ 8 ≤ s.rx.length ∧ crcValid s.rx = true)) ∧
  (∀ s t : State, exec .rxStart s = .next t → t.crcOk = false) ∧
  (∀ (i : Instr) (s t : State), i ≠ .rxStart → isCheck i = false → exec i s = .next t → t.crcOk = s.crcOk) ∧
  State.reset.crcOk = false

/-! ### Framer operands (spec/42_operands.md) -/

/-- R87, R88, R89: each SET command writes its operand register with any value, completes with OK, changes nothing else
(so a frame already built stays), its STATUS bit then reads 1 and the read port shows the value. -/
def Obligations.SetCommandsLoadTheOperands : Prop :=
  (∀ v : Byte, encode (.setSlave v) = (0x6 : BitVec 4) ++ (0 : BitVec 20) ++ v) ∧
  (∀ v : Half, encode (.setAddr v) = (0x7 : BitVec 4) ++ (0 : BitVec 12) ++ v) ∧
  (∀ v : Half, encode (.setArg v) = (0x8 : BitVec 4) ++ (0 : BitVec 12) ++ v) ∧
  (∀ (v : Byte) (s : State), exec (.setSlave v) s = .next { s with slave := some v, result := 0 } ∧
    (status { s with slave := some v, result := 0 }).getLsbD 8 = true ∧
    readPortWith true { s with slave := some v, result := 0 } 0x002 = some (v.setWidth 16)) ∧
  (∀ (v : Half) (s : State), exec (.setAddr v) s = .next { s with addr := some v, result := 0 } ∧
    (status { s with addr := some v, result := 0 }).getLsbD 9 = true ∧
    readPortWith true { s with addr := some v, result := 0 } 0x003 = some v) ∧
  ∀ (v : Half) (s : State), exec (.setArg v) s = .next { s with arg := some v, result := 0 } ∧
    (status { s with arg := some v, result := 0 }).getLsbD 10 = true ∧
    readPortWith true { s with arg := some v, result := 0 } 0x004 = some v

/-- R90 and R91: VAL.PUSH appends below 127 values and drops the value with Overflow at 127, setting no sticky bit;
VAL.CLEAR empties the list. -/
def Obligations.ValPushAndClear : Prop :=
  (∀ v : Half, encode (.valPush v) = (0x9 : BitVec 4) ++ (0 : BitVec 12) ++ v) ∧ encode .valClear = 0xA0000000 ∧
  ∀ s : State,
    (∀ v : Half, s.vals.length < 127 → exec (.valPush v) s = .next { s with vals := s.vals ++ [v], result := 0 }) ∧
    (∀ v : Half, 127 ≤ s.vals.length → exec (.valPush v) s = .next { s with result := 7 }) ∧
    exec .valClear s = .next { s with vals := [], result := 0 }

/-- Pushes in sequence keep the first 127 values in push order; without a VAL.CLEAR they follow the values already
there (R90, R121). -/
def Obligations.PushedValuesKeepPushOrder : Prop :=
  ∀ (vs : List Half) (s : State), vs ≠ [] → s.vals.length ≤ 127 →
    runInstrs (vs.map .valPush) s =
      .next { s with
        vals := (s.vals ++ vs).take 127
        result := if 127 < s.vals.length + vs.length then 7 else 0 }

/-! ### Request encoder (spec/43_encode.md) -/

/-- R94: ENC.READ, its checks in order, for every `RANGE_OK` (R93): an unset operand, count 0, a range that is not
accepted; else the eight-byte 0x03 request. The hardware's own `RANGE_OK` is an open parameter, so the last clause
says what happens for either answer it gives. -/
def Obligations.EncReadBuildsTheReadRequest : Prop :=
  encode .encRead = 0xB0000000 ∧
  (∀ s : State, s.slave = none ∨ s.addr = none ∨ s.arg = none →
    exec .encRead s = .next { s with tx := [], txValid := false, result := 8 }) ∧
  (∀ (rangeOk : Half → Half → Bool) (s : State) (S : Byte) (A n : Half),
    s.slave = some S → s.addr = some A → s.arg = some n →
    encReadWith rangeOk s =
      if n ≠ 0 ∧ rangeOk A n = true then
        { s with
          tx := appendCrc [S, 0x03, A.extractLsb' 8 8, A.extractLsb' 0 8, n.extractLsb' 8 8, n.extractLsb' 0 8]
          txValid := true
          result := 0 }
      else { s with tx := [], txValid := false, result := 1 }) ∧
  ∀ (s : State) (S : Byte) (A n : Half), s.slave = some S → s.addr = some A → s.arg = some n →
    exec .encRead s = .next (
      if n = 0 then { s with tx := [], txValid := false, result := 1 }
      else if Config.rangeOk A n = true then
        { s with
          tx := appendCrc [S, 0x03, A.extractLsb' 8 8, A.extractLsb' 0 8, n.extractLsb' 8 8, n.extractLsb' 0 8]
          txValid := true
          result := 0 }
      else { s with tx := [], txValid := false, result := 1 })

/-- R95: ENC.WRITE1 builds the eight-byte 0x06 request from any address and value; an unset operand is its only
error. -/
def Obligations.EncWrite1BuildsTheWriteRequest : Prop :=
  encode .encWrite1 = 0xC0000000 ∧
  (∀ s : State, s.slave = none ∨ s.addr = none ∨ s.arg = none →
    exec .encWrite1 s = .next { s with tx := [], txValid := false, result := 8 }) ∧
  ∀ (s : State) (S : Byte) (A v : Half), s.slave = some S → s.addr = some A → s.arg = some v →
    exec .encWrite1 s = .next { s with
      tx := appendCrc [S, 0x06, A.extractLsb' 8 8, A.extractLsb' 0 8, v.extractLsb' 8 8, v.extractLsb' 0 8]
      txValid := true
      result := 0 }

/-- R96: ENC.WRITEN builds the 0x10 request of `9 + 2n` bytes from the value list, which it keeps; `arg` is not used; an
unset slave or address and an empty list are its errors; for 1 to 127 values the count's high byte is 0 and the byte
count is exactly `2n`. That the count field is the number of values is the spec's own supply ("This is [from general
knowledge, not in source]", G6; log entry 12). -/
def Obligations.EncWriteNBuildsTheMultipleWriteRequest : Prop :=
  encode .encWriteN = 0xD0000000 ∧
  (∀ s : State, s.slave = none ∨ s.addr = none →
    exec .encWriteN s = .next { s with tx := [], txValid := false, result := 8 }) ∧
  (∀ (s : State) (S : Byte) (A : Half), s.slave = some S → s.addr = some A → s.vals = [] →
    exec .encWriteN s = .next { s with tx := [], txValid := false, result := 1 }) ∧
  ∀ (s : State) (S : Byte) (A : Half), s.slave = some S → s.addr = some A → s.vals ≠ [] → s.vals.length ≤ 127 →
    ∃ count bc : Byte, count.toNat = s.vals.length ∧ bc.toNat = 2 * s.vals.length ∧
      exec .encWriteN s = .next { s with
        tx := appendCrc ([S, 0x10, A.extractLsb' 8 8, A.extractLsb' 0 8, 0x00, count, bc] ++
          s.vals.flatMap fun v => [v.extractLsb' 8 8, v.extractLsb' 0 8])
        txValid := true
        result := 0 }

/-- R24: a successful encoder writes `tx_valid` 1 and a failed one 0; no other command writes it; it is 0 after reset;
and it is 1 exactly when the buffer then holds a frame. -/
def Obligations.TxValidFollowsTheLastEncoder : Prop :=
  (∀ (i : Instr) (s t : State), isEncoder i = true → exec i s = .next t →
    (t.txValid = true ↔ t.result = 0) ∧ (t.txValid = true ↔ t.tx ≠ []) ∧
      (t.txValid = true → ∃ m, t.tx = appendCrc m)) ∧
  (∀ (i : Instr) (s t : State), isEncoder i = false → exec i s = .next t → t.txValid = s.txValid) ∧
  State.reset.txValid = false

/-- R97, a law the spec derives: every frame an encoder builds has 8 bytes, or `9 + 2n` for ENC.WRITEN, at most 263, and
127 values reach 263. -/
def Obligations.LongestBuiltFrameIs263Bytes : Prop :=
  (∀ (i : Instr) (s t : State), isEncoder i = true → s.vals.length ≤ 127 → exec i s = .next t → t.txValid = true →
    t.tx.length = (if i = .encWriteN then 9 + 2 * s.vals.length else 8) ∧ t.tx.length ≤ 263) ∧
  ∀ (s : State) (S : Byte) (A : Half), s.slave = some S → s.addr = some A → s.vals.length = 127 →
    ∃ t, exec .encWriteN s = .next t ∧ t.result = 0 ∧ t.tx.length = 263

/-- R98, a law the spec derives: every frame an encoder builds, sent back byte by byte, passes RX.CHECK. -/
def Obligations.BuiltFramesPassTheValidator : Prop :=
  ∀ (i : Instr) (s t : State), isEncoder i = true → s.vals.length ≤ 127 → exec i s = .next t → t.result = 0 →
    runInstrs (.rxStart :: (t.tx.map .rxByte ++ [.rxCheck])) t =
      .next { t with rx := t.tx, rxOvf := false, crcOk := true, result := 0 }

/-! ### Response decoder (spec/44_decode.md) -/

/-- R99: DEC.READ's outcomes, the first check that applies deciding, and on success the words of R99's formula. -/
def Obligations.DecReadOutcome : Prop :=
  encode .decRead = 0xE0000000 ∧
  ∀ s : State, exec .decRead s = .next (
    let fail (e : BitVec 4) (k : Bool) : State :=
      { s with words := [], wordsValid := false, crcOk := k, result := e }
    match s.slave with
    | none => fail 8 false
    | some S =>
      if s.rxOvf = true then fail 7 false
      else if s.rx.length < 5 then fail 2 false
      else if crcValid s.rx = false then fail 5 false
      else if s.rx[0]? ≠ some S then fail 3 true
      else if s.rx[1]? ≠ some 0x03 then fail 4 true
      else
        let bc := (s.rx.getD 2 0).toNat
        if s.rx.length < 5 + bc then fail 2 true
        else if s.rx.length > 5 + bc ∨ bc % 2 = 1 then fail 6 true
        else
          { s with
            words := (List.range (bc / 2)).map fun i =>
              ((s.rx.getD (3 + 2 * i) 0).setWidth 16 <<< 8) ||| (s.rx.getD (4 + 2 * i) 0).setWidth 16
            wordsValid := true
            crcOk := true
            result := 0 })

/-- DEC.READ completes with OK exactly on the frames of R99's layout, `[slave, 0x03, byte_count, data..., crc_lo,
crc_hi]` with the big-endian bytes of at most 127 words as data, and then yields exactly those words (R44, R74, R99). -/
def Obligations.DecReadAcceptsExactlyReadResponses : Prop :=
  (∀ (s : State) (S : Byte) (ws : List Half), s.slave = some S → s.rxOvf = false → ws.length ≤ 127 →
    s.rx = appendCrc ([S, 0x03, BitVec.ofNat 8 (2 * ws.length)] ++
      ws.flatMap fun v => [v.extractLsb' 8 8, v.extractLsb' 0 8]) →
    exec .decRead s = .next { s with words := ws, wordsValid := true, crcOk := true, result := 0 }) ∧
  ∀ s t : State, exec .decRead s = .next t → t.result = 0 →
    ∃ S, s.slave = some S ∧ s.rxOvf = false ∧ t.words.length ≤ 127 ∧
      s.rx = appendCrc ([S, 0x03, BitVec.ofNat 8 (2 * t.words.length)] ++
        t.words.flatMap fun v => [v.extractLsb' 8 8, v.extractLsb' 0 8])

/-- R25: a successful DEC.READ writes `words_valid` 1 and a failed one 0 with the words emptied (R35); no other command
writes either; they are 0 and empty after reset. -/
def Obligations.WordsValidFollowsTheLastDecRead : Prop :=
  (∀ s t : State, exec .decRead s = .next t →
    (t.wordsValid = true ↔ t.result = 0) ∧ (t.result ≠ 0 → t.words = [])) ∧
  (∀ (i : Instr) (s t : State), i ≠ .decRead → exec i s = .next t →
    t.wordsValid = s.wordsValid ∧ t.words = s.words) ∧
  State.reset.wordsValid = false ∧ State.reset.words = []

/-- R100: DEC.ACK's outcomes, the first check that applies deciding; bytes 2 to `L-3` have no part in it beyond the
CRC. -/
def Obligations.DecAckOutcome : Prop :=
  (∀ f : Byte, encode (.decAck f) = (0xF : BitVec 4) ++ (0 : BitVec 20) ++ f) ∧
  ∀ (f : Byte) (s : State), exec (.decAck f) s = .next (
    match s.slave with
    | none => { s with crcOk := false, result := 8 }
    | some S =>
      if s.rxOvf = true then { s with crcOk := false, result := 7 }
      else if s.rx.length < 8 then { s with crcOk := false, result := 2 }
      else if crcValid s.rx = false then { s with crcOk := false, result := 5 }
      else if s.rx[0]? ≠ some S then { s with crcOk := true, result := 3 }
      else if s.rx[1]? ≠ some f then { s with crcOk := true, result := 4 }
      else { s with crcOk := true, result := 0 })

/-- DEC.ACK does not look at the echoed bytes (R100): it completes with OK on every frame of at least eight bytes that
carries its own CRC, the slave id and the expected function code, whatever the bytes between, and on no other. -/
def Obligations.DecAckDoesNotCheckTheEcho : Prop :=
  ∀ (f : Byte) (s : State) (S : Byte), s.slave = some S → s.rxOvf = false →
    (∀ echo : List Byte, 4 ≤ echo.length → s.rx = appendCrc ([S, f] ++ echo) →
      exec (.decAck f) s = .next { s with crcOk := true, result := 0 }) ∧
    ∀ t : State, exec (.decAck f) s = .next t → t.result = 0 →
      ∃ echo : List Byte, 4 ≤ echo.length ∧ s.rx = appendCrc ([S, f] ++ echo)

/-- R101, a law the spec derives from R79: if DEC.READ or DEC.ACK completes with OK and exactly one byte of `rx` is then
changed, the same command completes with CrcMismatch (5). -/
def Obligations.SingleByteCorruptionGivesCrcMismatch : Prop :=
  ∀ (i : Instr) (s t : State) (k : Nat) (b : Byte), i = .decRead ∨ (∃ f, i = .decAck f) →
    exec i s = .next t → t.result = 0 → k < s.rx.length → s.rx[k]? ≠ some b →
    ∃ u, exec i { t with rx := t.rx.set k b } = .next u ∧ u.result = 5 ∧ u.crcOk = false ∧ u.rx = s.rx.set k b

/-- R102, a law the spec derives: the frame of ENC.WRITE1 echoed back is accepted by DEC.ACK 0x06; the first six bytes
of ENC.WRITEN's frame, with their own CRC, are accepted by DEC.ACK 0x10. -/
def Obligations.EchoedRequestIsAcknowledged : Prop :=
  (∀ s t : State, exec .encWrite1 s = .next t → t.result = 0 →
    runInstrs (.rxStart :: (t.tx.map .rxByte ++ [.decAck 0x06])) t =
      .next { t with rx := t.tx, rxOvf := false, crcOk := true, result := 0 }) ∧
  ∀ s t : State, exec .encWriteN s = .next t → t.result = 0 →
    runInstrs (.rxStart :: ((appendCrc (t.tx.take 6)).map .rxByte ++ [.decAck 0x10])) t =
      .next { t with rx := appendCrc (t.tx.take 6), rxOvf := false, crcOk := true, result := 0 }

/-- R23: RX.BYTE on a full buffer sets `rx_ovf`; only RX.START or reset clears it; while it is 1, RX.CHECK completes
with Overflow, and so do DEC.READ and DEC.ACK once the slave id is set (with it unset, R99 and R100 put OperandUnset
first: log entry 10). -/
def Obligations.OverflowBitIsStickyAndBlocksChecks : Prop :=
  (∀ (b : Byte) (s t : State), 263 ≤ s.rx.length → exec (.rxByte b) s = .next t → t.rxOvf = true) ∧
  (∀ (i : Instr) (s t : State), s.rxOvf = true → i ≠ .rxStart → exec i s = .next t → t.rxOvf = true) ∧
  (∀ s t : State, exec .rxStart s = .next t → t.rxOvf = false) ∧
  ∀ (i : Instr) (s : State), isCheck i = true → s.rxOvf = true → (i = .rxCheck ∨ s.slave ≠ none) →
    ∃ t, exec i s = .next t ∧ t.result = 7 ∧ t.crcOk = false

/-- The 0x10 request, from any state, by the commands of REQ.WRITEN (R71, R87, R88, R90, R91, R96): the values given and
no older ones are sent. The count field is the spec's supply G6 (log entry 12). -/
def Obligations.MultipleWriteRequestFromAnyState : Prop :=
  ∀ (s : State) (S : Byte) (A : Half) (vs : List Half), vs ≠ [] → vs.length ≤ 127 →
    runInstrs (Pseudo.expansion (.reqWriteN S A vs)) s = .next { s with
      slave := some S
      addr := some A
      vals := vs
      tx := appendCrc ([S, 0x10, A.extractLsb' 8 8, A.extractLsb' 0 8, 0x00, BitVec.ofNat 8 vs.length,
        BitVec.ofNat 8 (2 * vs.length)] ++ vs.flatMap fun v => [v.extractLsb' 8 8, v.extractLsb' 0 8])
      txValid := true
      result := 0 }

/-! ### Data of the remote device (spec/20_memory.md) -/

/-- R54: of the three words of a packed read, finger `f` is the low byte of word `f div 2` when `f` is even and its high
byte when `f` is odd (conflict C2). -/
def Obligations.PackedFingersLowByteFirst : Prop :=
  ∀ w0 w1 w2 : Half,
    packedFinger [w0, w1, w2] .little = some (w0.extractLsb' 0 8) ∧
    packedFinger [w0, w1, w2] .ring = some (w0.extractLsb' 8 8) ∧
    packedFinger [w0, w1, w2] .middle = some (w1.extractLsb' 0 8) ∧
    packedFinger [w0, w1, w2] .index = some (w1.extractLsb' 8 8) ∧
    packedFinger [w0, w1, w2] .thumbBend = some (w2.extractLsb' 0 8) ∧
    packedFinger [w0, w1, w2] .thumbRotate = some (w2.extractLsb' 8 8)
end

