-- ==== Sys2Proof/Laws/Decode.lean ====
section
/-! SUPPORT. The small lemmas of the decoder and the encoder: what a format's word holds, what its "must be 0" bits
say, and `decodeWith` as one test. -/

namespace Sys2Proof

/-! ### The fields of a format's word (R62, R63, R64) -/

theorem wordN_fields (op : BitVec 4) : opcodeOf (wordN op) = op ∧ (wordN op).extractLsb' 0 28 = 0 := by
  constructor <;>
    (apply BitVec.eq_of_getLsbD_eq
     intro k hk
     simp only [opcodeOf, wordN, BitVec.getLsbD_extractLsb', BitVec.getLsbD_append]
     interval_cases k <;> simp)

theorem wordB_fields (op : BitVec 4) (b : Byte) :
    opcodeOf (wordB op b) = op ∧ (wordB op b).extractLsb' 8 20 = 0 ∧ imm8Of (wordB op b) = b := by
  refine ⟨?_, ?_, ?_⟩ <;>
    (apply BitVec.eq_of_getLsbD_eq
     intro k hk
     simp only [opcodeOf, imm8Of, wordB, BitVec.getLsbD_extractLsb', BitVec.getLsbD_append]
     interval_cases k <;> simp)

theorem wordH_fields (op : BitVec 4) (v : Half) :
    opcodeOf (wordH op v) = op ∧ (wordH op v).extractLsb' 16 12 = 0 ∧ imm16Of (wordH op v) = v := by
  refine ⟨?_, ?_, ?_⟩ <;>
    (apply BitVec.eq_of_getLsbD_eq
     intro k hk
     simp only [opcodeOf, imm16Of, wordH, BitVec.getLsbD_extractLsb', BitVec.getLsbD_append]
     interval_cases k <;> simp)

/-! ### The "must be 0" bits, as a mask and as a field -/

theorem reservedN_iff (w : Word) : w &&& Format.n.reservedBits = 0 ↔ w.extractLsb' 0 28 = 0 := by
  constructor <;> intro h <;> apply BitVec.eq_of_getLsbD_eq <;> intro k hk
  · have := congrArg (fun x => x.getLsbD k) h
    simp only [Format.reservedBits, BitVec.getLsbD_extractLsb', BitVec.getLsbD_and] at this ⊢
    interval_cases k <;> simpa using this
  · have := congrArg (fun x => x.getLsbD k) h
    simp only [Format.reservedBits, BitVec.getLsbD_extractLsb', BitVec.getLsbD_and] at this ⊢
    interval_cases k <;> simp_all

theorem reservedB_iff (w : Word) : w &&& Format.b.reservedBits = 0 ↔ w.extractLsb' 8 20 = 0 := by
  constructor <;> intro h <;> apply BitVec.eq_of_getLsbD_eq <;> intro k hk
  · have := congrArg (fun x => x.getLsbD (8 + k)) h
    simp only [Format.reservedBits, BitVec.getLsbD_extractLsb', BitVec.getLsbD_and] at this ⊢
    interval_cases k <;> simpa using this
  · have := congrArg (fun x => x.getLsbD (k - 8)) h
    simp only [Format.reservedBits, BitVec.getLsbD_extractLsb', BitVec.getLsbD_and] at this ⊢
    interval_cases k <;> simp_all

theorem reservedH_iff (w : Word) : w &&& Format.h.reservedBits = 0 ↔ w.extractLsb' 16 12 = 0 := by
  constructor <;> intro h <;> apply BitVec.eq_of_getLsbD_eq <;> intro k hk
  · have := congrArg (fun x => x.getLsbD (16 + k)) h
    simp only [Format.reservedBits, BitVec.getLsbD_extractLsb', BitVec.getLsbD_and] at this ⊢
    interval_cases k <;> simpa using this
  · have := congrArg (fun x => x.getLsbD (k - 16)) h
    simp only [Format.reservedBits, BitVec.getLsbD_extractLsb', BitVec.getLsbD_and] at this ⊢
    interval_cases k <;> simp_all

theorem formatOf_eq_none (op : BitVec 4) : formatOf op = none ↔ op = 0 := by
  revert op; decide

/-! ### The decoder as one test -/

/-- R67's decoder accepts exactly the words in which none of R68's three cases holds. -/
theorem decodeWith_eq (hasFramer : Bool) (w : Word) :
    decodeWith hasFramer w = if legalWordWith hasFramer w then commandOf w else .illegal w := by
  unfold decodeWith legalWordWith
  rw [show w.extractLsb' 28 4 = opcodeOf w from rfl]
  rcases hfo : formatOf (opcodeOf w) with _ | f
  · rw [if_pos ((formatOf_eq_none _).1 hfo)]; simp
  · have h0 : ¬opcodeOf w = 0 := fun h => by rw [(formatOf_eq_none _).2 h] at hfo; cases hfo
    rw [if_neg h0]
    have lt_iff : (opcodeOf w).toNat < 6 ↔ ¬6 ≤ (opcodeOf w).toNat := by omega
    cases f <;>
      simp only [Bool.and_eq_true, beq_iff_eq, reservedN_iff, reservedB_iff, reservedH_iff, Bool.or_eq_true,
        decide_eq_true_eq, lt_iff] <;>
      cases hasFramer <;> by_cases h6 : 6 ≤ (opcodeOf w).toNat <;> simp [h6]

theorem decodeWith_of_illegal {hasFramer : Bool} {w : Word} (h : legalWordWith hasFramer w = false) :
    decodeWith hasFramer w = .illegal w := by
  simp [decodeWith_eq, h]

end Sys2Proof
end

