-- ==== Sys2Proof/Laws/State.lean ====
section
/-! SUPPORT. One lemma per field and update of the state, so that no later proof unfolds a record update. -/

namespace Sys2Proof.Machine

/-! ### `complete` writes `result` alone (R21, R105). -/

@[simp] theorem complete_crc (e : ResultCode) (s : State) :
    (complete e s).crc = s.crc := rfl
@[simp] theorem complete_result (e : ResultCode) (s : State) :
    (complete e s).result = e.code := rfl
@[simp] theorem complete_crcOk (e : ResultCode) (s : State) :
    (complete e s).crcOk = s.crcOk := rfl
@[simp] theorem complete_rxOvf (e : ResultCode) (s : State) :
    (complete e s).rxOvf = s.rxOvf := rfl
@[simp] theorem complete_rx (e : ResultCode) (s : State) :
    (complete e s).rx = s.rx := rfl
@[simp] theorem complete_txValid (e : ResultCode) (s : State) :
    (complete e s).txValid = s.txValid := rfl
@[simp] theorem complete_wordsValid (e : ResultCode) (s : State) :
    (complete e s).wordsValid = s.wordsValid := rfl
@[simp] theorem complete_slave (e : ResultCode) (s : State) :
    (complete e s).slave = s.slave := rfl
@[simp] theorem complete_addr (e : ResultCode) (s : State) :
    (complete e s).addr = s.addr := rfl
@[simp] theorem complete_arg (e : ResultCode) (s : State) :
    (complete e s).arg = s.arg := rfl
@[simp] theorem complete_vals (e : ResultCode) (s : State) :
    (complete e s).vals = s.vals := rfl
@[simp] theorem complete_tx (e : ResultCode) (s : State) :
    (complete e s).tx = s.tx := rfl
@[simp] theorem complete_words (e : ResultCode) (s : State) :
    (complete e s).words = s.words := rfl
@[simp] theorem complete_pending (e : ResultCode) (s : State) :
    (complete e s).pending = s.pending := rfl
@[simp] theorem complete_observed (e : ResultCode) (s : State) :
    (complete e s).observed = s.observed := rfl
@[simp] theorem complete_draws (e : ResultCode) (s : State) :
    (complete e s).draws = s.draws := rfl
@[simp] theorem complete_resetSeen (e : ResultCode) (s : State) :
    (complete e s).resetSeen = s.resetSeen := rfl

/-! ### `encFail` (R92). -/

@[simp] theorem encFail_crc (e : ResultCode) (s : State) :
    (encFail e s).crc = s.crc := rfl
@[simp] theorem encFail_result (e : ResultCode) (s : State) :
    (encFail e s).result = e.code := rfl
@[simp] theorem encFail_crcOk (e : ResultCode) (s : State) :
    (encFail e s).crcOk = s.crcOk := rfl
@[simp] theorem encFail_rxOvf (e : ResultCode) (s : State) :
    (encFail e s).rxOvf = s.rxOvf := rfl
@[simp] theorem encFail_rx (e : ResultCode) (s : State) :
    (encFail e s).rx = s.rx := rfl
@[simp] theorem encFail_txValid (e : ResultCode) (s : State) :
    (encFail e s).txValid = false := rfl
@[simp] theorem encFail_wordsValid (e : ResultCode) (s : State) :
    (encFail e s).wordsValid = s.wordsValid := rfl
@[simp] theorem encFail_slave (e : ResultCode) (s : State) :
    (encFail e s).slave = s.slave := rfl
@[simp] theorem encFail_addr (e : ResultCode) (s : State) :
    (encFail e s).addr = s.addr := rfl
@[simp] theorem encFail_arg (e : ResultCode) (s : State) :
    (encFail e s).arg = s.arg := rfl
@[simp] theorem encFail_vals (e : ResultCode) (s : State) :
    (encFail e s).vals = s.vals := rfl
@[simp] theorem encFail_tx (e : ResultCode) (s : State) :
    (encFail e s).tx = [] := rfl
@[simp] theorem encFail_words (e : ResultCode) (s : State) :
    (encFail e s).words = s.words := rfl
@[simp] theorem encFail_pending (e : ResultCode) (s : State) :
    (encFail e s).pending = s.pending := rfl
@[simp] theorem encFail_observed (e : ResultCode) (s : State) :
    (encFail e s).observed = s.observed := rfl
@[simp] theorem encFail_draws (e : ResultCode) (s : State) :
    (encFail e s).draws = s.draws := rfl
@[simp] theorem encFail_resetSeen (e : ResultCode) (s : State) :
    (encFail e s).resetSeen = s.resetSeen := rfl

/-! ### `encBuild`: an encoder's success (R94, R95, R96). -/

@[simp] theorem encBuild_crc (m : List Byte) (s : State) :
    (encBuild m s).crc = s.crc := rfl
@[simp] theorem encBuild_result (m : List Byte) (s : State) :
    (encBuild m s).result = 0 := rfl
@[simp] theorem encBuild_crcOk (m : List Byte) (s : State) :
    (encBuild m s).crcOk = s.crcOk := rfl
@[simp] theorem encBuild_rxOvf (m : List Byte) (s : State) :
    (encBuild m s).rxOvf = s.rxOvf := rfl
@[simp] theorem encBuild_rx (m : List Byte) (s : State) :
    (encBuild m s).rx = s.rx := rfl
@[simp] theorem encBuild_txValid (m : List Byte) (s : State) :
    (encBuild m s).txValid = true := rfl
@[simp] theorem encBuild_wordsValid (m : List Byte) (s : State) :
    (encBuild m s).wordsValid = s.wordsValid := rfl
@[simp] theorem encBuild_slave (m : List Byte) (s : State) :
    (encBuild m s).slave = s.slave := rfl
@[simp] theorem encBuild_addr (m : List Byte) (s : State) :
    (encBuild m s).addr = s.addr := rfl
@[simp] theorem encBuild_arg (m : List Byte) (s : State) :
    (encBuild m s).arg = s.arg := rfl
@[simp] theorem encBuild_vals (m : List Byte) (s : State) :
    (encBuild m s).vals = s.vals := rfl
@[simp] theorem encBuild_tx (m : List Byte) (s : State) :
    (encBuild m s).tx = appendCrc m := rfl
@[simp] theorem encBuild_words (m : List Byte) (s : State) :
    (encBuild m s).words = s.words := rfl
@[simp] theorem encBuild_pending (m : List Byte) (s : State) :
    (encBuild m s).pending = s.pending := rfl
@[simp] theorem encBuild_observed (m : List Byte) (s : State) :
    (encBuild m s).observed = s.observed := rfl
@[simp] theorem encBuild_draws (m : List Byte) (s : State) :
    (encBuild m s).draws = s.draws := rfl
@[simp] theorem encBuild_resetSeen (m : List Byte) (s : State) :
    (encBuild m s).resetSeen = s.resetSeen := rfl

/-! ### `checkEnd`: the end of a check (R85, R100). -/

@[simp] theorem checkEnd_crc (e : ResultCode) (k : Bool) (s : State) :
    (checkEnd e k s).crc = s.crc := rfl
@[simp] theorem checkEnd_result (e : ResultCode) (k : Bool) (s : State) :
    (checkEnd e k s).result = e.code := rfl
@[simp] theorem checkEnd_crcOk (e : ResultCode) (k : Bool) (s : State) :
    (checkEnd e k s).crcOk = k := rfl
@[simp] theorem checkEnd_rxOvf (e : ResultCode) (k : Bool) (s : State) :
    (checkEnd e k s).rxOvf = s.rxOvf := rfl
@[simp] theorem checkEnd_rx (e : ResultCode) (k : Bool) (s : State) :
    (checkEnd e k s).rx = s.rx := rfl
@[simp] theorem checkEnd_txValid (e : ResultCode) (k : Bool) (s : State) :
    (checkEnd e k s).txValid = s.txValid := rfl
@[simp] theorem checkEnd_wordsValid (e : ResultCode) (k : Bool) (s : State) :
    (checkEnd e k s).wordsValid = s.wordsValid := rfl
@[simp] theorem checkEnd_slave (e : ResultCode) (k : Bool) (s : State) :
    (checkEnd e k s).slave = s.slave := rfl
@[simp] theorem checkEnd_addr (e : ResultCode) (k : Bool) (s : State) :
    (checkEnd e k s).addr = s.addr := rfl
@[simp] theorem checkEnd_arg (e : ResultCode) (k : Bool) (s : State) :
    (checkEnd e k s).arg = s.arg := rfl
@[simp] theorem checkEnd_vals (e : ResultCode) (k : Bool) (s : State) :
    (checkEnd e k s).vals = s.vals := rfl
@[simp] theorem checkEnd_tx (e : ResultCode) (k : Bool) (s : State) :
    (checkEnd e k s).tx = s.tx := rfl
@[simp] theorem checkEnd_words (e : ResultCode) (k : Bool) (s : State) :
    (checkEnd e k s).words = s.words := rfl
@[simp] theorem checkEnd_pending (e : ResultCode) (k : Bool) (s : State) :
    (checkEnd e k s).pending = s.pending := rfl
@[simp] theorem checkEnd_observed (e : ResultCode) (k : Bool) (s : State) :
    (checkEnd e k s).observed = s.observed := rfl
@[simp] theorem checkEnd_draws (e : ResultCode) (k : Bool) (s : State) :
    (checkEnd e k s).draws = s.draws := rfl
@[simp] theorem checkEnd_resetSeen (e : ResultCode) (k : Bool) (s : State) :
    (checkEnd e k s).resetSeen = s.resetSeen := rfl

/-! ### `decReadFail` (R99). -/

@[simp] theorem decReadFail_crc (e : ResultCode) (k : Bool) (s : State) :
    (decReadFail e k s).crc = s.crc := rfl
@[simp] theorem decReadFail_result (e : ResultCode) (k : Bool) (s : State) :
    (decReadFail e k s).result = e.code := rfl
@[simp] theorem decReadFail_crcOk (e : ResultCode) (k : Bool) (s : State) :
    (decReadFail e k s).crcOk = k := rfl
@[simp] theorem decReadFail_rxOvf (e : ResultCode) (k : Bool) (s : State) :
    (decReadFail e k s).rxOvf = s.rxOvf := rfl
@[simp] theorem decReadFail_rx (e : ResultCode) (k : Bool) (s : State) :
    (decReadFail e k s).rx = s.rx := rfl
@[simp] theorem decReadFail_txValid (e : ResultCode) (k : Bool) (s : State) :
    (decReadFail e k s).txValid = s.txValid := rfl
@[simp] theorem decReadFail_wordsValid (e : ResultCode) (k : Bool) (s : State) :
    (decReadFail e k s).wordsValid = false := rfl
@[simp] theorem decReadFail_slave (e : ResultCode) (k : Bool) (s : State) :
    (decReadFail e k s).slave = s.slave := rfl
@[simp] theorem decReadFail_addr (e : ResultCode) (k : Bool) (s : State) :
    (decReadFail e k s).addr = s.addr := rfl
@[simp] theorem decReadFail_arg (e : ResultCode) (k : Bool) (s : State) :
    (decReadFail e k s).arg = s.arg := rfl
@[simp] theorem decReadFail_vals (e : ResultCode) (k : Bool) (s : State) :
    (decReadFail e k s).vals = s.vals := rfl
@[simp] theorem decReadFail_tx (e : ResultCode) (k : Bool) (s : State) :
    (decReadFail e k s).tx = s.tx := rfl
@[simp] theorem decReadFail_words (e : ResultCode) (k : Bool) (s : State) :
    (decReadFail e k s).words = [] := rfl
@[simp] theorem decReadFail_pending (e : ResultCode) (k : Bool) (s : State) :
    (decReadFail e k s).pending = s.pending := rfl
@[simp] theorem decReadFail_observed (e : ResultCode) (k : Bool) (s : State) :
    (decReadFail e k s).observed = s.observed := rfl
@[simp] theorem decReadFail_draws (e : ResultCode) (k : Bool) (s : State) :
    (decReadFail e k s).draws = s.draws := rfl
@[simp] theorem decReadFail_resetSeen (e : ResultCode) (k : Bool) (s : State) :
    (decReadFail e k s).resetSeen = s.resetSeen := rfl

/-! ### `decReadDone`: DEC.READ's success (R99). -/

@[simp] theorem decReadDone_crc (ws : List Half) (s : State) :
    (decReadDone ws s).crc = s.crc := rfl
@[simp] theorem decReadDone_result (ws : List Half) (s : State) :
    (decReadDone ws s).result = 0 := rfl
@[simp] theorem decReadDone_crcOk (ws : List Half) (s : State) :
    (decReadDone ws s).crcOk = true := rfl
@[simp] theorem decReadDone_rxOvf (ws : List Half) (s : State) :
    (decReadDone ws s).rxOvf = s.rxOvf := rfl
@[simp] theorem decReadDone_rx (ws : List Half) (s : State) :
    (decReadDone ws s).rx = s.rx := rfl
@[simp] theorem decReadDone_txValid (ws : List Half) (s : State) :
    (decReadDone ws s).txValid = s.txValid := rfl
@[simp] theorem decReadDone_wordsValid (ws : List Half) (s : State) :
    (decReadDone ws s).wordsValid = true := rfl
@[simp] theorem decReadDone_slave (ws : List Half) (s : State) :
    (decReadDone ws s).slave = s.slave := rfl
@[simp] theorem decReadDone_addr (ws : List Half) (s : State) :
    (decReadDone ws s).addr = s.addr := rfl
@[simp] theorem decReadDone_arg (ws : List Half) (s : State) :
    (decReadDone ws s).arg = s.arg := rfl
@[simp] theorem decReadDone_vals (ws : List Half) (s : State) :
    (decReadDone ws s).vals = s.vals := rfl
@[simp] theorem decReadDone_tx (ws : List Half) (s : State) :
    (decReadDone ws s).tx = s.tx := rfl
@[simp] theorem decReadDone_words (ws : List Half) (s : State) :
    (decReadDone ws s).words = ws := rfl
@[simp] theorem decReadDone_pending (ws : List Half) (s : State) :
    (decReadDone ws s).pending = s.pending := rfl
@[simp] theorem decReadDone_observed (ws : List Half) (s : State) :
    (decReadDone ws s).observed = s.observed := rfl
@[simp] theorem decReadDone_draws (ws : List Half) (s : State) :
    (decReadDone ws s).draws = s.draws := rfl
@[simp] theorem decReadDone_resetSeen (ws : List Half) (s : State) :
    (decReadDone ws s).resetSeen = s.resetSeen := rfl

/-! ### `performRead` changes no field of the unit (R42). -/

@[simp] theorem performRead_crc (a : Half) (s : State) :
    (performRead a s).crc = s.crc := rfl
@[simp] theorem performRead_result (a : Half) (s : State) :
    (performRead a s).result = s.result := rfl
@[simp] theorem performRead_crcOk (a : Half) (s : State) :
    (performRead a s).crcOk = s.crcOk := rfl
@[simp] theorem performRead_rxOvf (a : Half) (s : State) :
    (performRead a s).rxOvf = s.rxOvf := rfl
@[simp] theorem performRead_rx (a : Half) (s : State) :
    (performRead a s).rx = s.rx := rfl
@[simp] theorem performRead_txValid (a : Half) (s : State) :
    (performRead a s).txValid = s.txValid := rfl
@[simp] theorem performRead_wordsValid (a : Half) (s : State) :
    (performRead a s).wordsValid = s.wordsValid := rfl
@[simp] theorem performRead_slave (a : Half) (s : State) :
    (performRead a s).slave = s.slave := rfl
@[simp] theorem performRead_addr (a : Half) (s : State) :
    (performRead a s).addr = s.addr := rfl
@[simp] theorem performRead_arg (a : Half) (s : State) :
    (performRead a s).arg = s.arg := rfl
@[simp] theorem performRead_vals (a : Half) (s : State) :
    (performRead a s).vals = s.vals := rfl
@[simp] theorem performRead_tx (a : Half) (s : State) :
    (performRead a s).tx = s.tx := rfl
@[simp] theorem performRead_words (a : Half) (s : State) :
    (performRead a s).words = s.words := rfl
@[simp] theorem performRead_pending (a : Half) (s : State) :
    (performRead a s).pending = s.pending := rfl
@[simp] theorem performRead_observed (a : Half) (s : State) :
    (performRead a s).observed = s.observed ++ [readValue s a] := rfl
@[simp] theorem performRead_draws (a : Half) (s : State) :
    (performRead a s).draws = s.draws + 1 := rfl
@[simp] theorem performRead_resetSeen (a : Half) (s : State) :
    (performRead a s).resetSeen = s.resetSeen := rfl

/-! ### `performReset`: every field of the unit at its reset value (R115). -/

@[simp] theorem performReset_crc (s : State) :
    (performReset s).crc = 0xFFFF := rfl
@[simp] theorem performReset_result (s : State) :
    (performReset s).result = 0 := rfl
@[simp] theorem performReset_crcOk (s : State) :
    (performReset s).crcOk = false := rfl
@[simp] theorem performReset_rxOvf (s : State) :
    (performReset s).rxOvf = false := rfl
@[simp] theorem performReset_rx (s : State) :
    (performReset s).rx = [] := rfl
@[simp] theorem performReset_txValid (s : State) :
    (performReset s).txValid = false := rfl
@[simp] theorem performReset_wordsValid (s : State) :
    (performReset s).wordsValid = false := rfl
@[simp] theorem performReset_slave (s : State) :
    (performReset s).slave = none := rfl
@[simp] theorem performReset_addr (s : State) :
    (performReset s).addr = none := rfl
@[simp] theorem performReset_arg (s : State) :
    (performReset s).arg = none := rfl
@[simp] theorem performReset_vals (s : State) :
    (performReset s).vals = [] := rfl
@[simp] theorem performReset_tx (s : State) :
    (performReset s).tx = [] := rfl
@[simp] theorem performReset_words (s : State) :
    (performReset s).words = [] := rfl
@[simp] theorem performReset_pending (s : State) :
    (performReset s).pending = s.pending := rfl
@[simp] theorem performReset_observed (s : State) :
    (performReset s).observed = s.observed := rfl
@[simp] theorem performReset_draws (s : State) :
    (performReset s).draws = s.draws := rfl
@[simp] theorem performReset_resetSeen (s : State) :
    (performReset s).resetSeen = true := rfl

/-! ### `issueNext` places a word as the host's next action (R8). -/

@[simp] theorem issueNext_crc (w : Word) (s : State) :
    (issueNext w s).crc = s.crc := rfl
@[simp] theorem issueNext_result (w : Word) (s : State) :
    (issueNext w s).result = s.result := rfl
@[simp] theorem issueNext_crcOk (w : Word) (s : State) :
    (issueNext w s).crcOk = s.crcOk := rfl
@[simp] theorem issueNext_rxOvf (w : Word) (s : State) :
    (issueNext w s).rxOvf = s.rxOvf := rfl
@[simp] theorem issueNext_rx (w : Word) (s : State) :
    (issueNext w s).rx = s.rx := rfl
@[simp] theorem issueNext_txValid (w : Word) (s : State) :
    (issueNext w s).txValid = s.txValid := rfl
@[simp] theorem issueNext_wordsValid (w : Word) (s : State) :
    (issueNext w s).wordsValid = s.wordsValid := rfl
@[simp] theorem issueNext_slave (w : Word) (s : State) :
    (issueNext w s).slave = s.slave := rfl
@[simp] theorem issueNext_addr (w : Word) (s : State) :
    (issueNext w s).addr = s.addr := rfl
@[simp] theorem issueNext_arg (w : Word) (s : State) :
    (issueNext w s).arg = s.arg := rfl
@[simp] theorem issueNext_vals (w : Word) (s : State) :
    (issueNext w s).vals = s.vals := rfl
@[simp] theorem issueNext_tx (w : Word) (s : State) :
    (issueNext w s).tx = s.tx := rfl
@[simp] theorem issueNext_words (w : Word) (s : State) :
    (issueNext w s).words = s.words := rfl
@[simp] theorem issueNext_pending (w : Word) (s : State) :
    (issueNext w s).pending = .command w :: s.pending := rfl
@[simp] theorem issueNext_observed (w : Word) (s : State) :
    (issueNext w s).observed = s.observed := rfl
@[simp] theorem issueNext_draws (w : Word) (s : State) :
    (issueNext w s).draws = s.draws := rfl
@[simp] theorem issueNext_resetSeen (w : Word) (s : State) :
    (issueNext w s).resetSeen = s.resetSeen := rfl

end Sys2Proof.Machine
end

