-- ==== Sys2Proof/Laws/Ops.lean ====
section
/-! SUPPORT. The small lemmas of the shared operations, and for each meaning that branches the list of all it can do. -/

namespace Sys2Proof.Machine

/-! ### The CRC function -/

@[simp] theorem crcFold_nil (c : Half) : crcFold c [] = c := rfl

@[simp] theorem crcFold_cons (c : Half) (b : Byte) (bs : List Byte) :
    crcFold c (b :: bs) = crcFold (crc16Step c b) bs := rfl

theorem crcFold_append (c : Half) (xs ys : List Byte) :
    crcFold c (xs ++ ys) = crcFold (crcFold c xs) ys := List.foldl_append

/-- The first equation of R73. -/
theorem crc16_nil : crc16 [] = 0xFFFF := rfl

/-- The second equation of R73. -/
theorem crc16_append_singleton (bs : List Byte) (b : Byte) :
    crc16 (bs ++ [b]) = crc16Step (crc16 bs) b := crcFold_append _ bs [b]

/-- One round is XOR-linear, which R77's proof sketch rests on. -/
theorem crcRound_xor (c d : Half) : crcRound (c ^^^ d) = crcRound c ^^^ crcRound d := by
  unfold crcRound
  rw [BitVec.getLsbD_xor, BitVec.ushiftRight_xor_distrib]
  have cancel (x : Half) : crcPoly ^^^ (crcPoly ^^^ x) = x := by
    rw [← BitVec.xor_assoc, BitVec.xor_self, BitVec.zero_xor]
  cases c.getLsbD 0 <;> cases d.getLsbD 0 <;> simp
  · ac_rfl
  · ac_rfl
  · rw [show c >>> 1 ^^^ crcPoly ^^^ (d >>> 1 ^^^ crcPoly) = crcPoly ^^^ (crcPoly ^^^ (c >>> 1 ^^^ d >>> 1)) by ac_rfl,
      cancel]

/-- Eight rounds of a 16-bit value: the body of R72 after the byte has entered. -/
theorem crc16Step_eq (c : Half) (b : Byte) :
    crc16Step c b = crcRound (crcRound (crcRound (crcRound (crcRound (crcRound (crcRound (crcRound
      (c ^^^ b.setWidth 16)))))))) := rfl

/-! ### Fields and frames -/

@[simp] theorem fieldBytes_length (v : Half) : (fieldBytes v).length = 2 := rfl

@[simp] theorem crcBytes_length (c : Half) : (crcBytes c).length = 2 := rfl

/-- `len(append_crc(m)) = len(m) + 2` (R74). -/
@[simp] theorem appendCrc_length (m : List Byte) : (appendCrc m).length = m.length + 2 := by
  simp [appendCrc]

@[simp] theorem requestMessage_length (slave fc : Byte) (addr v : Half) :
    (requestMessage slave fc addr v).length = 6 := rfl

theorem flatMap_fieldBytes_length (vs : List Half) : (vs.flatMap fieldBytes).length = 2 * vs.length := by
  induction vs with
  | nil => rfl
  | cons v vs ih => simp [List.flatMap_cons, ih]; omega

/-- The message of a 0x10 request is seven bytes and two for each value (R96). -/
theorem writeMultipleMessage_length (slave : Byte) (addr : Half) (vs : List Half) :
    (writeMultipleMessage slave addr vs).length = 7 + 2 * vs.length := by
  simp [writeMultipleMessage]; omega

/-- A field split into its bytes and joined again is the field (R44). -/
theorem joinBytes_hiByte_loByte (v : Half) : joinBytes (hiByte v) (loByte v) = v := by
  apply BitVec.eq_of_getLsbD_eq
  intro k hk
  simp only [joinBytes, hiByte, loByte, BitVec.getLsbD_or, BitVec.getLsbD_shiftLeft, BitVec.getLsbD_setWidth,
    BitVec.getLsbD_extractLsb']
  interval_cases k <;> simp

theorem unpackWords_length (bs : List Byte) : (unpackWords bs).length = bs.length / 2 := by
  induction bs using unpackWords.induct with
  | case1 h l rest ih => simp only [unpackWords, List.length_cons, ih]; omega
  | case2 bs hbs =>
    match bs, hbs with
    | [], _ => rfl
    | [_], _ => simp [unpackWords]
    | h :: l :: rest, hbs => exact absurd rfl (hbs h l rest)

/-- Two bytes joined and split again are the two bytes (R44). -/
theorem hiByte_loByte_joinBytes (h l : Byte) : hiByte (joinBytes h l) = h ∧ loByte (joinBytes h l) = l := by
  constructor <;>
    (apply BitVec.eq_of_getLsbD_eq
     intro k hk
     simp only [joinBytes, hiByte, loByte, BitVec.getLsbD_or, BitVec.getLsbD_shiftLeft, BitVec.getLsbD_setWidth,
       BitVec.getLsbD_extractLsb']
     interval_cases k <;> simp)

theorem unpackWords_flatMap_fieldBytes (vs : List Half) : unpackWords (vs.flatMap fieldBytes) = vs := by
  induction vs with
  | nil => rfl
  | cons v vs ih => simpa [fieldBytes, unpackWords, joinBytes_hiByte_loByte] using ih

theorem flatMap_fieldBytes_unpackWords (bs : List Byte) (h : bs.length % 2 = 0) :
    (unpackWords bs).flatMap fieldBytes = bs := by
  induction bs using unpackWords.induct with
  | case1 a b rest ih =>
    simp only [unpackWords, List.flatMap_cons, fieldBytes, hiByte_loByte_joinBytes, List.cons_append,
      List.nil_append]
    rw [← show (unpackWords rest).flatMap fieldBytes = _ from rfl, ih (by simp at h; omega)]
  | case2 bs hbs =>
    match bs, hbs with
    | [], _ => rfl
    | [_], _ => simp at h
    | a :: b :: rest, hbs => exact absurd rfl (hbs a b rest)

/-! ### Operands -/

theorem requestOperands_eq_none (slave : Option Byte) (addr arg : Option Half) :
    requestOperands slave addr arg = none ↔ slave = none ∨ addr = none ∨ arg = none := by
  cases slave <;> cases addr <;> cases arg <;> simp [requestOperands]

theorem listOperands_eq_none (slave : Option Byte) (addr : Option Half) :
    listOperands slave addr = none ↔ slave = none ∨ addr = none := by
  cases slave <;> cases addr <;> simp [listOperands]

@[simp] theorem requestOperands_some (slave : Byte) (addr arg : Half) :
    requestOperands (some slave) (some addr) (some arg) = some (slave, addr, arg) := rfl

@[simp] theorem listOperands_some (slave : Byte) (addr : Half) :
    listOperands (some slave) (some addr) = some (slave, addr) := rfl

/-! ### All that a branching meaning can do -/

/-- RX.BYTE appends below the capacity, and drops the byte at it (R84). -/
theorem execRxByte_cases (b : Byte) (s : State) :
    (s.rx.length < 263 ∧ execRxByte b s = .next { complete .ok s with rx := s.rx ++ [b] }) ∨
    (263 ≤ s.rx.length ∧ execRxByte b s = .next { complete .overflow s with rxOvf := true }) := by
  unfold execRxByte
  split_ifs with h
  · exact .inl ⟨h, rfl⟩
  · exact .inr ⟨Nat.le_of_not_lt h, rfl⟩

/-- VAL.PUSH appends below the capacity, and drops the value at it (R90). -/
theorem execValPush_cases (v : Half) (s : State) :
    (s.vals.length < 127 ∧ execValPush v s = .next { complete .ok s with vals := s.vals ++ [v] }) ∨
    (127 ≤ s.vals.length ∧ execValPush v s = .next (complete .overflow s)) := by
  unfold execValPush
  split_ifs with h
  · exact .inl ⟨h, rfl⟩
  · exact .inr ⟨Nat.le_of_not_lt h, rfl⟩

/-- An encoder fails or builds: nothing else (R92). -/
theorem encEnd_cases (request : Except ResultCode (List Byte)) (s : State) :
    (∃ e, request = .error e ∧ encEnd request s = encFail e s) ∨
    (∃ m, request = .ok m ∧ encEnd request s = encBuild m s) := by
  cases request with
  | error e => exact .inl ⟨e, rfl, rfl⟩
  | ok m => exact .inr ⟨m, rfl, rfl⟩

/-- DEC.READ fails or yields words: nothing else (R99). -/
theorem decReadEnd_cases (verdict : Except (ResultCode × Bool) (List Half)) (s : State) :
    (∃ e k, verdict = .error (e, k) ∧ decReadEnd verdict s = decReadFail e k s) ∨
    (∃ ws, verdict = .ok ws ∧ decReadEnd verdict s = decReadDone ws s) := by
  cases verdict with
  | error ek => exact .inl ⟨ek.1, ek.2, rfl, rfl⟩
  | ok ws => exact .inr ⟨ws, rfl, rfl⟩

/-- What ENC.READ can answer: an error that is not OK, or the message of six bytes (R94). -/
theorem readRequest_cases (rangeOk : Half → Half → Bool) (slave : Option Byte) (addr arg : Option Half) :
    (∃ e, e ≠ .ok ∧ readRequest rangeOk slave addr arg = .error e) ∨
    (∃ S A n, slave = some S ∧ addr = some A ∧ arg = some n ∧ n ≠ 0 ∧ rangeOk A n = true ∧
      readRequest rangeOk slave addr arg = .ok (requestMessage S 0x03 A n)) := by
  cases slave <;> cases addr <;> cases arg <;>
    first | exact .inl ⟨.operandUnset, by decide, rfl⟩ | skip
  next S A n =>
    simp only [readRequest, requestOperands_some]
    split_ifs with hn hr
    · exact .inl ⟨.invalidRange, by decide, rfl⟩
    · exact .inl ⟨.invalidRange, by decide, rfl⟩
    · exact .inr ⟨S, A, n, rfl, rfl, rfl, hn, by simpa using hr, rfl⟩

/-- What ENC.WRITE1 can answer (R95). -/
theorem writeRequest_cases (slave : Option Byte) (addr arg : Option Half) :
    writeRequest slave addr arg = .error .operandUnset ∨
    (∃ S A v, slave = some S ∧ addr = some A ∧ arg = some v ∧
      writeRequest slave addr arg = .ok (requestMessage S 0x06 A v)) := by
  cases slave <;> cases addr <;> cases arg <;> first | exact .inl rfl | exact .inr ⟨_, _, _, rfl, rfl, rfl, rfl⟩

/-- What ENC.WRITEN can answer (R96). -/
theorem writeMultipleRequest_cases (slave : Option Byte) (addr : Option Half) (vals : List Half) :
    (∃ e, e ≠ .ok ∧ writeMultipleRequest slave addr vals = .error e) ∨
    (∃ S A, slave = some S ∧ addr = some A ∧ vals ≠ [] ∧
      writeMultipleRequest slave addr vals = .ok (writeMultipleMessage S A vals)) := by
  cases slave <;> cases addr <;>
    first | exact .inl ⟨.operandUnset, by decide, rfl⟩ | skip
  next S A =>
    cases vals with
    | nil => exact .inl ⟨.invalidRange, by decide, rfl⟩
    | cons v vs => exact .inr ⟨S, A, rfl, rfl, by simp, rfl⟩

/-- What RX.CHECK can answer: OK goes with a CRC that holds on at least four bytes, everything else with `crc_ok` 0
(R85). -/
theorem rxVerdict_cases (rxOvf : Bool) (rx : List Byte) :
    (rxVerdict rxOvf rx = (.ok, true) ∧ rxOvf = false ∧ 4 ≤ rx.length ∧ crcValid rx = true) ∨
    (∃ e, e ≠ .ok ∧ rxVerdict rxOvf rx = (e, false)) := by
  unfold rxVerdict
  split_ifs with h1 h2 h3
  · exact .inr ⟨_, by decide, rfl⟩
  · exact .inr ⟨_, by decide, rfl⟩
  · exact .inl ⟨rfl, by simpa using h1, by omega, h3⟩
  · exact .inr ⟨_, by decide, rfl⟩

/-- What DEC.READ can answer: words only from a valid frame that holds exactly its even byte count (R99). -/
theorem readVerdict_cases (slave : Option Byte) (rxOvf : Bool) (rx : List Byte) :
    (∃ e k, e ≠ .ok ∧ readVerdict slave rxOvf rx = .error (e, k)) ∨
    (slave = some (frameByte rx 0) ∧ rxOvf = false ∧ crcValid rx = true ∧ frameByte rx 1 = 0x03 ∧
      rx.length = 5 + (frameByte rx 2).toNat ∧ (frameByte rx 2).toNat % 2 = 0 ∧
      readVerdict slave rxOvf rx = .ok (unpackWords ((rx.drop 3).take (frameByte rx 2).toNat))) := by
  cases slave with
  | none => exact .inl ⟨_, _, by decide, rfl⟩
  | some S =>
    simp only [readVerdict]
    split_ifs with h1 h2 h3 h4 h5 h6 h7
    any_goals exact .inl ⟨_, _, by decide, rfl⟩
    exact .inr ⟨by simpa using Eq.symm (not_not.mp h4), by simpa using h1, by simpa using h3, not_not.mp h5,
      by omega, by omega, rfl⟩

/-- What DEC.ACK can answer (R100). -/
theorem ackVerdict_cases (expected : Byte) (slave : Option Byte) (rxOvf : Bool) (rx : List Byte) :
    (ackVerdict expected slave rxOvf rx = (.ok, true) ∧ slave = some (frameByte rx 0) ∧ rxOvf = false ∧
      8 ≤ rx.length ∧ crcValid rx = true ∧ frameByte rx 1 = expected) ∨
    (∃ e k, e ≠ .ok ∧ ackVerdict expected slave rxOvf rx = (e, k)) := by
  cases slave with
  | none => exact .inr ⟨_, _, by decide, rfl⟩
  | some S =>
    simp only [ackVerdict]
    split_ifs with h1 h2 h3 h4 h5
    rotate_right
    · exact .inl ⟨rfl, by simpa using Eq.symm (not_not.mp h4), by simpa using h1, by omega, by simpa using h3,
        not_not.mp h5⟩
    all_goals exact .inr ⟨_, _, by decide, rfl⟩

/-! ### The host's actions -/

theorem takeAction_nil {s : State} (h : s.pending = []) : takeAction s = none := by
  simp [takeAction, h]

theorem takeAction_cons {s : State} {a : HostAction} {rest : List HostAction} (h : s.pending = a :: rest) :
    takeAction s = some (a, { s with pending := rest }) := by
  simp [takeAction, h]

end Sys2Proof.Machine
end

