-- ==== Sys2Proof/Laws/PerInstr.lean ====
section
/-! SUPPORT. Statements made per instruction. -/

namespace Sys2Proof.Laws.EncodeShape

/-- The encoding of a command falls under its own row of R66, whatever its operand: the opcode is the row's and the
"must be 0" bits of R62 to R64 are zero. An illegal command has no row. -/
def Statement (i : Instr) : Prop :=
  i.mnemonic = "(illegal)" ∨
    ∃ r ∈ opcodeRows, r.name = i.mnemonic ∧ r.framer = i.isFramer ∧ r.selects (encode i) = true

theorem wordB_and_mask (op : BitVec 4) (imm8 : Byte) : wordB op imm8 &&& 0xFFFFFF00 = wordN op := by
  apply BitVec.eq_of_getLsbD_eq
  intro k hk
  simp only [wordB, wordN, BitVec.getLsbD_and, BitVec.getLsbD_append]
  interval_cases k <;> simp

theorem wordH_and_mask (op : BitVec 4) (imm16 : Half) : wordH op imm16 &&& 0xFFFF0000 = wordN op := by
  apply BitVec.eq_of_getLsbD_eq
  intro k hk
  simp only [wordH, wordN, BitVec.getLsbD_and, BitVec.getLsbD_append]
  interval_cases k <;> simp

theorem selects_wordB {name : String} {op : BitVec 4} {framer : Bool} (imm8 : Byte) :
    OpcodeRow.selects ⟨name, wordN op, 0xFFFFFF00, framer⟩ (wordB op imm8) = true := by
  simp only [OpcodeRow.selects, wordB_and_mask, beq_self_eq_true]

theorem selects_wordH {name : String} {op : BitVec 4} {framer : Bool} (imm16 : Half) :
    OpcodeRow.selects ⟨name, wordN op, 0xFFFF0000, framer⟩ (wordH op imm16) = true := by
  simp only [OpcodeRow.selects, wordH_and_mask, beq_self_eq_true]

theorem crcInit : Statement .crcInit :=
  .inr ⟨⟨"CRC.INIT", 0x10000000, 0xFFFFFFFF, false⟩, by decide, rfl, rfl, by decide⟩

theorem crcByte (imm8 : Byte) : Statement (.crcByte imm8) :=
  .inr ⟨⟨"CRC.BYTE", wordN 0x2, 0xFFFFFF00, false⟩, by decide, rfl, rfl, selects_wordB imm8⟩

theorem rxStart : Statement .rxStart :=
  .inr ⟨⟨"RX.START", 0x30000000, 0xFFFFFFFF, false⟩, by decide, rfl, rfl, by decide⟩

theorem rxByte (imm8 : Byte) : Statement (.rxByte imm8) :=
  .inr ⟨⟨"RX.BYTE", wordN 0x4, 0xFFFFFF00, false⟩, by decide, rfl, rfl, selects_wordB imm8⟩

theorem rxCheck : Statement .rxCheck :=
  .inr ⟨⟨"RX.CHECK", 0x50000000, 0xFFFFFFFF, false⟩, by decide, rfl, rfl, by decide⟩

theorem setSlave (imm8 : Byte) : Statement (.setSlave imm8) :=
  .inr ⟨⟨"SET.SLAVE", wordN 0x6, 0xFFFFFF00, true⟩, by decide, rfl, rfl, selects_wordB imm8⟩

theorem setAddr (imm16 : Half) : Statement (.setAddr imm16) :=
  .inr ⟨⟨"SET.ADDR", wordN 0x7, 0xFFFF0000, true⟩, by decide, rfl, rfl, selects_wordH imm16⟩

theorem setArg (imm16 : Half) : Statement (.setArg imm16) :=
  .inr ⟨⟨"SET.ARG", wordN 0x8, 0xFFFF0000, true⟩, by decide, rfl, rfl, selects_wordH imm16⟩

theorem valPush (imm16 : Half) : Statement (.valPush imm16) :=
  .inr ⟨⟨"VAL.PUSH", wordN 0x9, 0xFFFF0000, true⟩, by decide, rfl, rfl, selects_wordH imm16⟩

theorem valClear : Statement .valClear :=
  .inr ⟨⟨"VAL.CLEAR", 0xA0000000, 0xFFFFFFFF, true⟩, by decide, rfl, rfl, by decide⟩

theorem encRead : Statement .encRead :=
  .inr ⟨⟨"ENC.READ", 0xB0000000, 0xFFFFFFFF, true⟩, by decide, rfl, rfl, by decide⟩

theorem encWrite1 : Statement .encWrite1 :=
  .inr ⟨⟨"ENC.WRITE1", 0xC0000000, 0xFFFFFFFF, true⟩, by decide, rfl, rfl, by decide⟩

theorem encWriteN : Statement .encWriteN :=
  .inr ⟨⟨"ENC.WRITEN", 0xD0000000, 0xFFFFFFFF, true⟩, by decide, rfl, rfl, by decide⟩

theorem decRead : Statement .decRead :=
  .inr ⟨⟨"DEC.READ", 0xE0000000, 0xFFFFFFFF, true⟩, by decide, rfl, rfl, by decide⟩

theorem decAck (imm8 : Byte) : Statement (.decAck imm8) :=
  .inr ⟨⟨"DEC.ACK", wordN 0xF, 0xFFFFFF00, true⟩, by decide, rfl, rfl, selects_wordB imm8⟩

theorem illegal (w : Word) : Statement (.illegal w) := .inl rfl

end Sys2Proof.Laws.EncodeShape
end

