-- ==== Sys2Proof/Laws/Run.lean ====
section
/-! SUPPORT. How runs unfold, one step or one command at a time. -/

namespace Sys2Proof.Safety

open Sys2Proof.Machine

/-- A run of any machine whose first step answers a next state goes on from it. -/
theorem core_run_succ_of_next (M : Host.Core) {s t : M.State} (n : Nat) (h : M.step s = .next t) :
    M.run (n + 1) s = M.run n t := by
  rw [Host.Core.run, h]

/-- A run whose first step answers a next state goes on from it. -/
theorem run_succ_of_next {s t : State} (n : Nat) (h : step s = .next t) :
    Sys2Proof.core.run (n + 1) s = Sys2Proof.core.run n t :=
  core_run_succ_of_next Sys2Proof.core n h

theorem runInstrs_cons_of_next {s t : State} {i : Instr} (is : List Instr) (h : exec i s = .next t) :
    runInstrs (i :: is) s = runInstrs is t := by
  rw [runInstrs, h]

/-- Two sequences of commands, one after the other (R56). -/
theorem runInstrs_append_of_next {s t : State} (is js : List Instr) (h : runInstrs is s = .next t) :
    runInstrs (is ++ js) s = runInstrs js t := by
  induction is generalizing s with
  | nil => cases h; rfl
  | cons i is ih =>
    rw [runInstrs] at h
    rw [List.cons_append, runInstrs]
    revert h
    cases exec i s with
    | next u => exact fun h => ih h
    | fault r => exact fun h => nomatch h
    | refused r => exact fun h => nomatch h

theorem runWordsWith_cons_of_next {s t : State} {hasFramer : Bool} {w : Word} (ws : List Word)
    (h : issueWith hasFramer w s = .next t) :
    runWordsWith hasFramer (w :: ws) s = runWordsWith hasFramer ws t := by
  rw [runWordsWith, h]

end Sys2Proof.Safety
end

