-- ==== Sys2Proof/Tests/Slice0.lean ====
section
/-! SUPPORT. The model's own tests. Expected values are the spec's: the encoding tables of spec/30_encoding.md and the
vectors of spec/95_test_vectors.md. The second half shows, for every obligation that has hypotheses, a concrete state
and operands that meet them. -/

namespace Sys2Proof.Tests

open Sys2Proof Sys2Proof.Machine Sys2Proof.Safety

-- One kernel evaluation after the other: side by side, so many of them exhaust the threads the check allows.
set_option Elab.async false

/-- The state a command leaves. -/
def after (i : Instr) (s : State) : State :=
  match exec i s with
  | .next t => t
  | .fault _ => s
  | .refused _ => s

/-- Every command answers a next state, so `after i s = t` says that `exec i s` answers `t`. -/
theorem exec_eq_after (i : Instr) (s : State) : exec i s = .next (after i s) := by
  unfold after
  cases h : exec i s with
  | next t => rfl
  | fault f => cases f
  | refused r =>
    cases i with
    | rxByte b => simp only [exec, execRxByte] at h; split_ifs at h
    | valPush v => simp only [exec, execValPush] at h; split_ifs at h
    | _ => cases h

/-- The state a step leaves. -/
def stepped (s : State) : State :=
  match step s with
  | .next t => t
  | .fault _ => s
  | .refused _ => s

/-- What a test looks at beside the buffers: STATUS. -/
def statusAfter (i : Instr) (s : State) : Half := status (after i s)

/-- Slave 0x01 is set and `rx` holds a received frame. -/
def received (rx : List Byte) : State := { State.reset with slave := some 0x01, rx := rx }

/-- The operands of a request are set. -/
def request (slave : Byte) (addr arg : Half) : State :=
  { State.reset with slave := some slave, addr := some addr, arg := some arg }

/-- The operands of a write-multiple are set. -/
def requestN (slave : Byte) (addr : Half) (vals : List Half) : State :=
  { State.reset with slave := some slave, addr := some addr, vals := vals }

/-- Every buffer full. -/
def full : State :=
  { State.reset with
    rx := List.replicate 263 0x00
    vals := List.replicate 127 0x0000
    tx := List.replicate 263 0x00
    txValid := true
    words := List.replicate 127 0x0000
    wordsValid := true }

/-! ### WellFormed: an ill-formed term for each check, refused -/

/-- R66: a framer command is no command of a unit without the framer. -/
theorem test_wf_framer_command_needs_the_framer :
    (Instr.setSlave 0x01).wfWith false = false ∧ (Instr.decAck 0x10).wfWith false = false ∧
      (Instr.setSlave 0x01).wfWith true = true ∧ (Instr.crcInit).wfWith false = true := by decide

/-- R62, R68: a word of format N with its "must be 0" bits zero is no illegal word. -/
theorem test_wf_illegal_of_a_legal_word_n : (Instr.illegal 0x10000000).wf = false := by decide

/-- R63, R68: nor is one of format B. -/
theorem test_wf_illegal_of_a_legal_word_b : (Instr.illegal 0x200000FF).wf = false := by decide

/-- R64, R68: nor is one of format H. -/
theorem test_wf_illegal_of_a_legal_word_h : (Instr.illegal 0x9000FFFF).wf = false := by decide

/-- R68's three cases: opcode 0x0, a nonzero "must be 0" bit of each format, a framer opcode without the framer. -/
theorem test_wf_illegal_words :
    (Instr.illegal 0x0FFFFFFF).wf = true ∧ (Instr.illegal 0x18000000).wf = true ∧
      (Instr.illegal 0x20000100).wf = true ∧ (Instr.illegal 0x70010000).wf = true ∧
      (Instr.illegal 0x60000001).wfWith false = true ∧ (Instr.illegal 0x60000001).wfWith true = false := by decide

/-! ### Decode: for each constructor a word written out bit by bit from R62 to R64 and the OP column of R66 -/

theorem test_decode_crc_init : decode 0b0001_0000000000000000000000000000#32 = .crcInit := by decide
theorem test_decode_crc_byte : decode 0b0010_00000000000000000000_10010110#32 = .crcByte 0x96 := by decide
theorem test_decode_rx_start : decode 0b0011_0000000000000000000000000000#32 = .rxStart := by decide
theorem test_decode_rx_byte : decode 0b0100_00000000000000000000_11001110#32 = .rxByte 0xCE := by decide
theorem test_decode_rx_check : decode 0b0101_0000000000000000000000000000#32 = .rxCheck := by decide
theorem test_decode_set_slave : decode 0b0110_00000000000000000000_00010111#32 = .setSlave 0x17 := by decide
theorem test_decode_set_addr : decode 0b0111_000000000000_0000010111001110#32 = .setAddr 1486 := by decide
theorem test_decode_set_arg : decode 0b1000_000000000000_0000001111101000#32 = .setArg 1000 := by decide
theorem test_decode_val_push : decode 0b1001_000000000000_1000000000000001#32 = .valPush 0x8001 := by decide
theorem test_decode_val_clear : decode 0b1010_0000000000000000000000000000#32 = .valClear := by decide
theorem test_decode_enc_read : decode 0b1011_0000000000000000000000000000#32 = .encRead := by decide
theorem test_decode_enc_write1 : decode 0b1100_0000000000000000000000000000#32 = .encWrite1 := by decide
theorem test_decode_enc_writen : decode 0b1101_0000000000000000000000000000#32 = .encWriteN := by decide
theorem test_decode_dec_read : decode 0b1110_0000000000000000000000000000#32 = .decRead := by decide
theorem test_decode_dec_ack : decode 0b1111_00000000000000000000_00010000#32 = .decAck 0x10 := by decide

/-- 95_test_vectors.md 2.1: opcode 0x0, and the lowest "must be 0" bit of each format. -/
theorem test_decode_illegal :
    decode 0x00000000 = .illegal 0x00000000 ∧ decode 0x0FFFFFFF = .illegal 0x0FFFFFFF ∧
      decode 0x10000001 = .illegal 0x10000001 ∧ decode 0x20000100 = .illegal 0x20000100 ∧
      decode 0x70010000 = .illegal 0x70010000 ∧ decode 0xF0000100 = .illegal 0xF0000100 := by decide

/-- The highest "must be 0" bit of each format (R62, R63, R64: bit 27). -/
theorem test_decode_illegal_bit_27 :
    decode 0x58000000 = .illegal 0x58000000 ∧ decode 0x68000000 = .illegal 0x68000000 ∧
      decode 0x98000000 = .illegal 0x98000000 := by decide

/-- The words of R70's examples, and no word for a value longer than 32 bits. -/
theorem test_decode_table_word :
    decodeTableWord 32 0x700005CE = some (.setAddr 0x05CE) ∧ decodeTableWord 32 0xF0000010 = some (.decAck 0x10) ∧
      decodeTableWord 32 0x100000000 = none := by decide

/-- R46: the low byte first, and the high byte first, of 0x700005CE. -/
theorem test_decode_bytes_both_orders :
    decodeBytes ⟨0, 1, 2, 3⟩ [0xCE, 0x05, 0x00, 0x70, 0x99] = some (.setAddr 0x05CE, [0x99]) ∧
      decodeBytes ⟨3, 2, 1, 0⟩ [0x70, 0x00, 0x05, 0xCE] = some (.setAddr 0x05CE, []) := by decide

/-! ### The assembler (R70, R71) -/

/-- R70's three examples. -/
theorem test_assemble_examples :
    assembleLine "CRC.BYTE 0x01".toList = some [0x20000001] ∧
      assembleLine "SET.ADDR ANGLE_SET".toList = some [0x700005CE] ∧
      assembleLine "dec.ack 0x10 ; write multiple".toList = some [0xF0000010] := by decide +kernel

/-- R70: a value that does not fit is an error, and so is a missing or an extra operand. -/
theorem test_assemble_errors :
    assembleLine "CRC.BYTE 256".toList = none ∧ assembleLine "SET.ARG 65536".toList = none ∧
      assembleLine "RX.START 1".toList = none ∧ assembleLine "SET.SLAVE".toList = none := by decide +kernel

/-- R71 with the words of program P2 (95_test_vectors.md 3). -/
theorem test_assemble_req_writen :
    assembleLine "REQ.WRITEN 0x01, ANGLE_SET, 0, 1000".toList =
      some [0x60000001, 0x700005CE, 0xA0000000, 0x90000000, 0x900003E8, 0xD0000000] := by decide +kernel

/-- One command on each line (R70). -/
theorem test_assemble_program :
    assembleProgram "RX.FRAME 0xFF, 0xFF\n; nothing\nRX.CHECK".toList =
      some [0x30000000, 0x400000FF, 0x400000FF, 0x50000000] := by decide +kernel

/-! ### The CRC function (95_test_vectors.md 2.2) -/

theorem test_crc_step :
    crc16Step 0xFFFF 0x00 = 0x40BF ∧ crc16Step 0xFFFF 0xFF = 0x00FF ∧ crc16Step 0x0000 0x01 = 0xC0C1 ∧
      crc16Step 0x0001 0x00 = 0xC0C1 ∧ crc16Step 0x1234 0x56 = 0xE993 := by decide

theorem test_crc_table :
    [0x00, 0x01, 0x02, 0x03, 0x40, 0x80, 0xC0, 0xFF].map (crc16Step 0) =
      [0x0000, 0xC0C1, 0xC181, 0x0140, 0xF001, 0xA001, 0x5000, 0x4040] := by decide +kernel

/-- R80: the bytes of "123456789", and the frame `01 03 00 00 00 0A C5 CD`. -/
theorem test_crc_check_values :
    crc16 [0x31, 0x32, 0x33, 0x34, 0x35, 0x36, 0x37, 0x38, 0x39] = 0x4B37 ∧
      appendCrc [0x01, 0x03, 0x00, 0x00, 0x00, 0x0A] =
        [0x01, 0x03, 0x00, 0x00, 0x00, 0x0A, 0xC5, 0xCD] := by decide +kernel

theorem test_crc_of_short_lists :
    crc16 [0xA0, 0x01] = 0x70B8 ∧ crc16 [0x80] = 0xE0BE ∧ crc16 [0x01] = 0x807E := by decide +kernel

/-! ### CRC engine -/

/-- R75's example. -/
theorem test_crc_init : (after .crcInit { State.reset with crc := 0x1234 }).crc = 0xFFFF := by decide

/-- From reset no CRC.INIT is needed, and STATUS stays 0x0000 (95_test_vectors.md 2.2). -/
theorem test_crc_byte :
    (after (.crcByte 0x00) State.reset).crc = 0x40BF ∧ statusAfter (.crcByte 0x00) State.reset = 0x0000 := by decide

/-! ### Frame validator (95_test_vectors.md 2.3) -/

/-- R83's example. -/
theorem test_rx_start :
    (after .rxStart { State.reset with rx := [0x01, 0x03], rxOvf := true }).rx = [] ∧
      statusAfter .rxStart { State.reset with rx := [0x01, 0x03], rxOvf := true, crcOk := true } = 0x0000 := by decide

/-- R84's example. -/
theorem test_rx_byte : (after (.rxByte 0x03) { State.reset with rx := [0x01] }).rx = [0x01, 0x03] := by decide

/-- The 264th byte: dropped, STATUS 0x0027. -/
theorem test_rx_byte_overflow :
    (after (.rxByte 0xAA) full).rx = full.rx ∧
      statusAfter (.rxByte 0xAA) { State.reset with rx := List.replicate 263 0x00 } = 0x0027 := by decide +kernel

theorem test_rx_check_ok_and_mismatch :
    statusAfter .rxCheck { State.reset with rx := [0x01, 0x06, 0x05, 0xCE, 0x03, 0xE8, 0xE8, 0x47] } = 0x0010 ∧
      statusAfter .rxCheck { State.reset with rx := [0x01, 0x06, 0x05, 0xCE, 0x03, 0xE8, 0xE8, 0x48] } = 0x0005 ∧
      statusAfter .rxCheck { State.reset with rx := [0x01, 0x03, 0x40, 0x21] } = 0x0010 := by decide +kernel

theorem test_rx_check_short_and_overflow :
    statusAfter .rxCheck { State.reset with rx := [0x00, 0xBF, 0x40], crcOk := true } = 0x0002 ∧
      statusAfter .rxCheck { State.reset with rx := [0x01, 0x03, 0x40, 0x21], rxOvf := true } = 0x0027 := by
  decide +kernel

/-! ### Framer operands (95_test_vectors.md 2.4) -/

theorem test_set_slave :
    (after (.setSlave 0x00) State.reset).slave = some 0x00 ∧ statusAfter (.setSlave 0x00) State.reset = 0x0100 ∧
      readPort (after (.setSlave 0xFF) State.reset) 0x002 = some 0x00FF := by decide

theorem test_set_addr :
    readPort (after (.setAddr 0x05CE) State.reset) 0x003 = some 0x05CE ∧
      statusAfter (.setAddr 0x05CE) State.reset = 0x0200 := by decide

theorem test_set_arg :
    readPort (after (.setArg 0xFFFF) State.reset) 0x004 = some 0xFFFF ∧
      statusAfter (.setArg 0xFFFF) State.reset = 0x0400 := by decide

theorem test_val_push :
    readPort (after (.valPush 0x0002) (requestN 0x01 0 [0x0001])) 0x005 = some 2 ∧
      readPort (after (.valPush 0x0002) (requestN 0x01 0 [0x0001])) 0x101 = some 0x0002 ∧
      readPort (after (.valPush 0x0002) (requestN 0x01 0 [0x0001])) 0x102 = none := by decide

/-- The 128th value is dropped, and no sticky bit is set: STATUS of the full state shows Overflow, TX_VALID and
WORDS_VALID. -/
theorem test_val_push_overflow :
    (after (.valPush 0x1234) full).vals = full.vals ∧ statusAfter (.valPush 0x1234) full = 0x00C7 := by
  decide +kernel

theorem test_val_clear : readPort (after .valClear (requestN 0x01 0 [1, 2])) 0x005 = some 0 := by decide

/-! ### Request encoder (95_test_vectors.md 2.5) -/

/-- With `RANGE_OK` true: the frame, and STATUS 0x0740; with `RANGE_OK` false: STATUS 0x0701. -/
theorem test_enc_read :
    (encReadWith (fun _ _ => true) (request 0x01 0x060A 6)).tx = [0x01, 0x03, 0x06, 0x0A, 0x00, 0x06, 0xE5, 0x42] ∧
      status (encReadWith (fun _ _ => true) (request 0x01 0x060A 6)) = 0x0740 ∧
      status (encReadWith (fun _ _ => false) (request 0x01 0x060A 6)) = 0x0701 := by decide +kernel

/-- An unset operand from reset: STATUS 0x0008; count 0 discards an earlier frame, whatever `RANGE_OK` says. -/
theorem test_enc_read_errors :
    statusAfter .encRead State.reset = 0x0008 ∧
      statusAfter .encRead { request 0x01 0x060A 0 with tx := [0x01], txValid := true } = 0x0701 ∧
      (after .encRead { request 0x01 0x060A 0 with tx := [0x01], txValid := true }).tx = [] := by decide

theorem test_enc_write1 :
    (after .encWrite1 (request 0x01 0x05CE 1000)).tx = [0x01, 0x06, 0x05, 0xCE, 0x03, 0xE8, 0xE8, 0x47] ∧
      (after .encWrite1 (request 0xFF 0x0000 0)).tx = [0xFF, 0x06, 0x00, 0x00, 0x00, 0x00, 0x9C, 0x14] ∧
      statusAfter .encWrite1 (request 0x01 0x05CE 1000) = 0x0740 := by decide +kernel

/-- `set_all(ANGLE_SET, [0,0,0,0,0,0])`, the end-to-end scenario (95_test_vectors.md 1.6). -/
theorem test_enc_writen :
    (after .encWriteN (requestN 0x01 1486 (List.replicate 6 0))).tx =
        [0x01, 0x10, 0x05, 0xCE, 0x00, 0x06, 0x0C] ++ List.replicate 12 0x00 ++ [0xCD, 0xB2] ∧
      statusAfter .encWriteN (requestN 0x01 1486 (List.replicate 6 0)) = 0x0340 ∧
      statusAfter .encWriteN (requestN 0x01 1486 []) = 0x0301 := by decide +kernel

/-- Six times 1000: the high byte of each value goes first. -/
theorem test_enc_writen_big_endian :
    ((after .encWriteN (requestN 0x01 1486 (List.replicate 6 1000))).tx.drop 7).take 4 = [0x03, 0xE8, 0x03, 0xE8] ∧
      (after .encWriteN (requestN 0x01 1486 (List.replicate 6 1000))).tx.drop 19 = [0x22, 0xEF] := by decide +kernel

/-! ### Response decoder (95_test_vectors.md 2.6) -/

theorem test_dec_read :
    (after .decRead (received [0x01, 0x03, 0x06, 0x07, 0x00, 0x02, 0x03, 0x00, 0x05, 0x11, 0x79])).words =
        [0x0700, 0x0203, 0x0005] ∧
      statusAfter .decRead (received [0x01, 0x03, 0x06, 0x07, 0x00, 0x02, 0x03, 0x00, 0x05, 0x11, 0x79]) = 0x0190 ∧
      statusAfter .decRead (received [0x01, 0x03, 0x00, 0x20, 0xF0]) = 0x0190 := by decide +kernel

/-- Each failing row of the table, by its STATUS. -/
theorem test_dec_read_errors :
    [[0x01, 0x03, 0x20, 0xF0], [0x01, 0x03, 0x00, 0x20, 0xF1], [0x02, 0x03, 0x00, 0xD0, 0xF0],
      [0x01, 0x04, 0x00, 0x22, 0xC0], [0x01, 0x83, 0x02, 0xC0, 0xF1], [0x01, 0x03, 0x04, 0x00, 0x00, 0x58, 0x45],
      [0x01, 0x03, 0x02, 0x00, 0x00, 0x00, 0x00, 0x72, 0x33], [0x01, 0x03, 0x01, 0x00, 0xF0, 0x48]].map
        (fun rx => statusAfter .decRead (received rx)) =
      [0x0102, 0x0105, 0x0113, 0x0114, 0x0114, 0x0112, 0x0116, 0x0116] := by decide +kernel

/-- The accepting rows, the echo that differs and the nine-byte frame among them. -/
theorem test_dec_ack :
    statusAfter (.decAck 0x10) (received [0x01, 0x10, 0x05, 0xCE, 0x00, 0x06, 0x21, 0x38]) = 0x0110 ∧
      statusAfter (.decAck 0x06) (received [0x01, 0x06, 0x05, 0xCE, 0x03, 0xE7, 0xA8, 0x43]) = 0x0110 ∧
      statusAfter (.decAck 0x10) (received [0x01, 0x10, 0x05, 0xCE, 0x00, 0x06, 0x99, 0x38, 0x72]) = 0x0110 := by
  decide +kernel

/-- The failing rows. -/
theorem test_dec_ack_errors :
    [[0x01, 0x06, 0x05, 0xCE, 0x03, 0xE8, 0xE8, 0x47], [0x01, 0x10, 0x05, 0xCE, 0x82, 0xD9],
      [0x03, 0x10, 0x05, 0xCE, 0x00, 0x06, 0x20, 0xDA], [0x01, 0x10, 0x05, 0xCF, 0x00, 0x06, 0x21, 0x38]].map
        (fun rx => statusAfter (.decAck 0x10) (received rx)) =
      [0x0114, 0x0102, 0x0113, 0x0105] := by decide +kernel

/-! ### The illegal space, the read port, reset and a step -/

/-- Program P4: STATUS goes from 0x0740 to 0x0749, and `tx` and `arg` stay. -/
theorem test_illegal_word :
    statusAfter (decode 0x80010000) { request 0x01 0x05CE 1000 with tx := [0x01], txValid := true } = 0x0749 ∧
      (after (decode 0x80010000) (request 0x01 0x05CE 1000)).arg = some 1000 := by decide

/-- Without the framer, SET.SLAVE's word is illegal and STATUS bits 10:6 read as zero (R20, R68). -/
theorem test_unit_without_the_framer :
    after (decodeWith false 0x60000001) State.reset = { State.reset with result := 9 } ∧
      statusWith false { request 0x01 0 0 with txValid := true } = 0x0000 ∧
      readPortWith false (request 0x01 0 0) 0x002 = none ∧
      readPortWith false State.reset 0x009 = some 0x0000 := by decide

/-- 95_test_vectors.md 2.7: what the read port shows after reset. -/
theorem test_read_port_after_reset :
    readPort State.reset 0x000 = some 0xFFFF ∧ readPort State.reset 0x001 = some 0x0000 ∧
      readPort State.reset 0x009 = some 0x0001 ∧ readPort State.reset 0x006 = some 0 ∧
      readPort State.reset 0x007 = some 0 ∧ readPort State.reset 0x002 = none := by decide

/-- The last index of each buffer and the first past it (R41). -/
theorem test_read_port_edges :
    [0x17E, 0x17F, 0x306, 0x307, 0x506, 0x507, 0x67E, 0x67F].map (readPort full) =
      [some 0, none, some 0, none, some 0, none, some 0, none] := by decide +kernel

/-- Reset wins over every field, and a second reset changes nothing (R115, R116). -/
theorem test_reset_clears_everything :
    performReset full = State.reset ∧ performReset (performReset full) = performReset full := by decide +kernel

/-- A step takes the host's next action: here the word of SET.ARG 1000. -/
theorem test_step_takes_the_word :
    stepped (State.reset.withFetchWord 32 0x800003E8) = { State.reset with arg := some 1000 } := by decide

/-- The packed example with the values of conflict C2 (95_test_vectors.md 1.3). -/
theorem test_packed_fingers :
    [Finger.little, .ring, .middle, .index, .thumbBend, .thumbRotate].map
        (packedFinger [0x0700, 0x0203, 0x0005]) =
      [some 0x00, some 0x07, some 0x03, some 0x02, some 0x05, some 0x00] := by decide

/-- R52's decimal and hex columns, and R53's stride. -/
theorem test_remote_addresses :
    remoteAddress "ANGLE_SET".toList = some 0x05CE ∧ remoteAddress "FORCE_SENSOR_CALIB".toList = some 0x03F1 ∧
      remoteAddress "POS_SET".toList = none ∧ fingerAddress 1486 .thumbRotate = 1496 := by decide +kernel

/-! ### Witnesses: a state and operands that meet an obligation's hypotheses, named after it -/

theorem witness_DecodeOfEncodeIsTheCommand :
    (Instr.crcByte 0xFF).wfWith false = true ∧ (Instr.setAddr 0xFFFF).wfWith true = true ∧
      (Instr.illegal 0xF0000010).wfWith false = true ∧ (Instr.illegal 0x00000000).wfWith true = true := by decide

theorem witness_EveryWordIsExactlyOneCommandOrIllegal :
    (Instr.decAck 0xFF).wfWith true = true ∧ encode (.decAck 0xFF) = 0xF00000FF ∧
      (Instr.illegal 0xF00000FF).wfWith false = true ∧ encode (.illegal 0xF00000FF) = 0xF00000FF := by decide

theorem witness_OpcodeMapSelectsTheCommand :
    (∃ r ∈ opcodeRows, r.selects 0x200000FF = true ∧ r.framer = false) ∧
      (∃ r ∈ opcodeRows, r.selects 0x9000FFFF = true ∧ r.framer = true) ∧
      (∀ r ∈ opcodeRows, r.selects 0x00000000 = true → r.framer = true ∧ false = false) := by decide

/-- One word under each clause; the last is a legal word of a unit with the framer. -/
theorem witness_IllegalWordWritesOnlyIllegalCommand :
    (0x0FFFFFFF : Word).extractLsb' 28 4 = 0x0 ∧
      ((0xE8000000 : Word).extractLsb' 28 4 = 0xE ∧ (0xE8000000 : Word).extractLsb' 0 28 ≠ 0) ∧
      ((0xF0000100 : Word).extractLsb' 28 4 = 0xF ∧ (0xF0000100 : Word).extractLsb' 8 20 ≠ 0) ∧
      ((0x90010000 : Word).extractLsb' 28 4 = 0x9 ∧ (0x90010000 : Word).extractLsb' 16 12 ≠ 0) ∧
      6 ≤ ((0x60000001 : Word).extractLsb' 28 4).toNat := by decide

theorem witness_CommandWordSurvivesAnyByteOrder :
    (⟨2, 0, 3, 1⟩ : Config.CmdByteOrder).wf ∧ [0x70, 0x00, (0x05 : Byte)].length < 4 := by decide

/-- A step of each kind, and the two ends of the range of `nbits`. -/
theorem witness_StepPerformsTheHostsNextAction :
    ({ State.reset with pending := [.command 0x10000000] }).pending = [.command 0x10000000] ∧
      ({ State.reset with pending := [.read 0x001] }).pending = [.read 0x001] ∧
      ({ State.reset with pending := [.reset, .reset] }).pending = [.reset, .reset] ∧
      State.reset.pending = [] ∧ 0xFFFFFFFF < 2 ^ 32 ∧ 0 < 2 ^ 0 := by decide

/-- The first and the last index of every gap of the map. -/
theorem witness_ReadPortMap :
    ∀ a ∈ ([0x00A, 0x0FF, 0x17F, 0x1FF, 0x307, 0x3FF, 0x507, 0x5FF, 0x67F, 0xFFFF] : List Half),
      0x009 < a.toNat ∧ ¬(0x100 ≤ a.toNat ∧ a.toNat ≤ 0x17E) ∧ ¬(0x200 ≤ a.toNat ∧ a.toNat ≤ 0x306) ∧
        ¬(0x400 ≤ a.toNat ∧ a.toNat ≤ 0x506) ∧ ¬(0x600 ≤ a.toNat ∧ a.toNat ≤ 0x67E) := by
  intro a h
  simp only [List.mem_cons, List.not_mem_nil, or_false] at h
  rcases h with rfl | rfl | rfl | rfl | rfl | rfl | rfl | rfl | rfl | rfl <;> decide

/-- The last index of the receive buffer, full, after a reset has been seen. -/
theorem witness_ReadsHaveNoSideEffect :
    full.resetSeen = true ∧ [(0x001 : Half), 0x306][1]? = some 0x306 ∧ readPortWith true full 0x306 = some 0 := by
  decide +kernel

theorem witness_ResetSetsEveryField :
    ({ full with pending := [.reset, .read 0x100] }).pending = .reset :: [.read 0x100] ∧
      0x100 ≤ (0x100 : Half).toNat ∧ 0x100 ≤ (0xFFFF : Half).toNat := by decide

theorem witness_PowerOnIsUnspecifiedUntilReset : ({ full with resetSeen := false }).resetSeen = false := by decide

/-- Reset, and every buffer full. -/
theorem witness_EveryStepKeepsTheStateLegal : Legal State.reset ∧ Legal full := by
  constructor <;> constructor <;> decide +kernel

/-- A full buffer with the bit set, where the next action is to push one more byte. -/
theorem witness_OverflowBitMeansFullBuffer :
    full.rx.length ≤ 263 ∧ ({ full with rxOvf := true }).rx.length = 263 ∧
      stepped { full with rxOvf := true, pending := [.command 0x40000001] } =
        { full with rxOvf := true, result := 7 } := by decide +kernel

/-- A command that meets the hypotheses of every clause, and one of each that a clause names. -/
theorem witness_OnlyTheNamedCommandsWriteAField :
    after (.illegal 0) State.reset = { State.reset with result := 9 } ∧ isCheck (.illegal 0) = false ∧
      isEncoder (.illegal 0) = false ∧ after .valClear full = { full with vals := [] } := by decide +kernel

/-- A failing command of each kind that R105 lists. -/
theorem witness_FailingCommandWritesOnlyItsFailureEffects :
    (after .rxCheck State.reset).result = 2 ∧ (after .encRead State.reset).result = 8 ∧
      (after .decRead (received [])).result = 2 ∧ (after (.rxByte 0x01) full).result = 7 := by decide +kernel

theorem witness_FramerAndValidatorIgnoreTheCrcRegister :
    Instr.rxCheck ≠ .crcInit ∧ (∀ b, Instr.rxCheck ≠ .crcByte b) ∧
      after .rxCheck State.reset = { State.reset with result := 2 } := by
  refine ⟨by decide, fun b => by simp, by decide⟩

theorem witness_ReissuedEncoderOrCheckChangesNothing :
    isEncoder .encRead = true ∧ after .encRead State.reset = { State.reset with result := 8 } ∧
      isCheck .decRead = true ∧ after .decRead State.reset = { State.reset with result := 8 } := by decide

theorem witness_WithoutTheFramerItsFieldsStayAtReset : FramerAtReset State.reset := by constructor <;> decide

theorem witness_UnitsShareNoState :
    [full, State.reset][1]? = some State.reset ∧ stepped State.reset = State.reset ∧ (0 : Nat) ≠ 1 := by
  decide +kernel

/-- The shortest valid list and its last byte. -/
theorem witness_SingleByteErrorIsDetected :
    crcValid [0xFF, 0xFF] = true ∧ [0xFF, (0xFF : Byte)][1]? ≠ some 0x00 := by decide

theorem witness_CrcInitStartsAtAllOnes :
    (0x18000000 : Word).extractLsb' 28 4 = 0x1 ∧ (0x18000000 : Word).extractLsb' 0 28 ≠ 0 := by decide

theorem witness_CrcEngineComputesTheCrcOfAMessage :
    State.reset.crc = crc16 [] ∧ (after (.crcByte 0x00) State.reset).crc = crc16 [0x00] ∧ [(0x01 : Byte)] ≠ [] := by
  decide

/-- The last byte that fits, the first that does not, and the full buffer with the bit set. -/
theorem witness_RxByteAppendsOrOverflows :
    ({ State.reset with rx := List.replicate 262 0x00 }).rx.length < 263 ∧ 263 ≤ full.rx.length ∧
      full.rx.length = 263 ∧ ({ full with rxOvf := true }).rxOvf = true ∧ Instr.valClear ≠ .rxStart ∧
      after .valClear { full with rxOvf := true } = { full with rxOvf := true, vals := [] } := by decide +kernel

theorem witness_RxCheckRejectsShortAndCorruptedFrames :
    ({ State.reset with rx := [0x00, 0xBF, 0x40] }).rxOvf = false ∧
      after .rxCheck { State.reset with rx := [0x01, 0x03, 0x40, 0x21] } =
        { State.reset with rx := [0x01, 0x03, 0x40, 0x21], crcOk := true } ∧
      [0x01, 0x03, 0x40, (0x21 : Byte)][0]? ≠ some 0x02 := by decide +kernel

theorem witness_FramedMessagePassesTheValidator :
    2 ≤ [0x01, (0x03 : Byte)].length ∧ (List.replicate 261 (0x00 : Byte)).length ≤ 261 := by decide +kernel

theorem witness_CrcOkSaysTheComparisonHeld :
    after .rxCheck State.reset = { State.reset with result := 2 } ∧
      after .decRead State.reset = { State.reset with result := 8 } ∧
      after (.decAck 0x10) State.reset = { State.reset with result := 8 } ∧
      after .rxStart State.reset = State.reset ∧
      Instr.crcInit ≠ .rxStart ∧ isCheck .crcInit = false ∧ after .crcInit State.reset = State.reset := by decide

/-- One value below the capacity, and the capacity. -/
theorem witness_ValPushAndClear :
    ({ State.reset with vals := List.replicate 126 0 }).vals.length < 127 ∧ 127 ≤ full.vals.length := by
  decide +kernel

theorem witness_PushedValuesKeepPushOrder : [(0x1234 : Half)] ≠ [] ∧ full.vals.length ≤ 127 := by decide +kernel

theorem witness_EncReadBuildsTheReadRequest :
    State.reset.slave = none ∧ (requestN 0x01 0x05CE []).arg = none ∧
      (request 0x01 0x060A 0).arg = some 0 ∧ (request 0x01 0x060A 6).slave = some 0x01 ∧
      (request 0x01 0x060A 6).addr = some 0x060A ∧ (request 0x01 0x060A 6).arg = some 6 := by decide

theorem witness_EncWrite1BuildsTheWriteRequest :
    (requestN 0x01 0x05CE []).arg = none ∧ (request 0xFF 0xFFFF 0).slave = some 0xFF ∧
      (request 0xFF 0xFFFF 0).addr = some 0xFFFF ∧ (request 0xFF 0xFFFF 0).arg = some 0 := by decide

/-- No operand; no value; one value; 127 values. -/
theorem witness_EncWriteNBuildsTheMultipleWriteRequest :
    State.reset.addr = none ∧ (requestN 0x01 0x05CE []).vals = [] ∧ (requestN 0x01 0x05CE []).slave = some 0x01 ∧
      (requestN 0x01 0x05CE [7]).vals ≠ [] ∧ (requestN 0x01 0x05CE [7]).addr = some 0x05CE ∧
      (requestN 0x01 0x05CE (List.replicate 127 7)).vals.length ≤ 127 := by decide +kernel

theorem witness_TxValidFollowsTheLastEncoder :
    isEncoder .encRead = true ∧ after .encRead State.reset = { State.reset with result := 8 } ∧
      isEncoder .rxStart = false ∧ after .rxStart State.reset = State.reset ∧
      (after .encWrite1 (request 0x01 0x05CE 1000)).txValid = true := by decide +kernel

theorem witness_LongestBuiltFrameIs263Bytes :
    isEncoder .encWrite1 = true ∧ (request 0x01 0x05CE 1000).vals.length ≤ 127 ∧
      (after .encWrite1 (request 0x01 0x05CE 1000)).txValid = true ∧
      (requestN 0x01 0x05CE (List.replicate 127 7)).slave = some 0x01 ∧
      (requestN 0x01 0x05CE (List.replicate 127 7)).addr = some 0x05CE ∧
      (requestN 0x01 0x05CE (List.replicate 127 7)).vals.length = 127 := by decide +kernel

theorem witness_BuiltFramesPassTheValidator :
    isEncoder .encWriteN = true ∧ (requestN 0x01 0x05CE [0]).vals.length ≤ 127 ∧
      (after .encWriteN (requestN 0x01 0x05CE [0])).result = 0 := by decide +kernel

/-- A response with no word and one with 127; and the OK row of the vectors for the second clause. -/
theorem witness_DecReadAcceptsExactlyReadResponses :
    (received (appendCrc [0x01, 0x03, 0x00])).rx = appendCrc ([0x01, 0x03, BitVec.ofNat 8 (2 * 0)] ++
        ([] : List Half).flatMap fun v => [v.extractLsb' 8 8, v.extractLsb' 0 8]) ∧
      (received (appendCrc ([0x01, 0x03, 0xFE] ++ List.replicate 254 0xAA))).rx =
        appendCrc ([0x01, 0x03, BitVec.ofNat 8 (2 * 127)] ++
          (List.replicate 127 (0xAAAA : Half)).flatMap fun v => [v.extractLsb' 8 8, v.extractLsb' 0 8]) ∧
      (received []).slave = some 0x01 ∧ (received []).rxOvf = false ∧
      (after .decRead (received [0x01, 0x03, 0x00, 0x20, 0xF0])).result = 0 := by
  refine ⟨rfl, ?_, rfl, rfl, by decide +kernel⟩
  exact congrArg appendCrc (by decide +kernel)

theorem witness_WordsValidFollowsTheLastDecRead :
    after .decRead State.reset = { State.reset with result := 8 } ∧
      (after .decRead (received [0x01, 0x03, 0x00, 0x20, 0xF0])).wordsValid = true ∧
      Instr.rxStart ≠ .decRead ∧ after .rxStart State.reset = State.reset := by decide +kernel

/-- Four bytes of echo, the shortest that is accepted. -/
theorem witness_DecAckDoesNotCheckTheEcho :
    4 ≤ [0x05, 0xCE, 0x00, (0x06 : Byte)].length ∧ (received []).slave = some 0x01 ∧ (received []).rxOvf = false ∧
      (received [0x01, 0x10, 0x05, 0xCE, 0x00, 0x06, 0x21, 0x38]).rx =
        appendCrc ([0x01, 0x10] ++ [0x05, 0xCE, 0x00, 0x06]) ∧
      (after (.decAck 0x10) (received [0x01, 0x10, 0x05, 0xCE, 0x00, 0x06, 0x21, 0x38])).result = 0 := by
  decide +kernel

/-- Both commands, the first byte and the last one changed. -/
theorem witness_SingleByteCorruptionGivesCrcMismatch :
    (after .decRead (received [0x01, 0x03, 0x00, 0x20, 0xF0])).result = 0 ∧
      [0x01, 0x03, 0x00, 0x20, (0xF0 : Byte)][0]? ≠ some 0x02 ∧
      (after (.decAck 0x10) (received [0x01, 0x10, 0x05, 0xCE, 0x00, 0x06, 0x21, 0x38])).result = 0 ∧
      [0x01, 0x10, 0x05, 0xCE, 0x00, 0x06, 0x21, (0x38 : Byte)][7]? ≠ some 0x39 := by decide +kernel

theorem witness_EchoedRequestIsAcknowledged :
    (after .encWrite1 (request 0x01 0x05CE 1000)).result = 0 ∧
      (after .encWriteN (requestN 0x01 0x05CE [0])).result = 0 := by decide +kernel

/-- The full buffer for RX.BYTE; the bit set for the rest; each check, with and without the slave id. -/
theorem witness_OverflowBitIsStickyAndBlocksChecks :
    263 ≤ full.rx.length ∧ after (.rxByte 0x01) full = { full with rxOvf := true, result := 7 } ∧
      after .crcInit { State.reset with rxOvf := true } = { State.reset with rxOvf := true } ∧
      after .rxStart State.reset = State.reset ∧
      isCheck .rxCheck = true ∧ isCheck .decRead = true ∧ isCheck (.decAck 0x10) = true ∧
      ({ received [] with rxOvf := true }).rxOvf = true ∧ ({ received [] with rxOvf := true }).slave ≠ none := by
  decide +kernel

theorem witness_MultipleWriteRequestFromAnyState :
    [(0x0000 : Half)] ≠ [] ∧ (List.replicate 127 (0x0000 : Half)).length ≤ 127 := by decide +kernel

end Sys2Proof.Tests
end

section
/-! PROOFS. What one step of the machine does, by the host's oldest action (R7, R8, R56). -/

namespace Sys2Proof.Machine

/-! ### The equations of `step`, one per shape of the host's list of actions -/

/-- The unit waits when the host asks for nothing (R8, R126). -/
theorem step_of_pending_nil {s : State} (h : s.pending = []) : step s = .next s := by
  rw [step, takeAction_nil h]

/-- The oldest action is taken off the list and performed on what is left (R56). -/
theorem step_of_pending_cons {s : State} {a : HostAction} {rest : List HostAction} (h : s.pending = a :: rest) :
    step s = perform a { s with pending := rest } := by
  rw [step, takeAction_cons h]

/-! ### What performing an action is, one equation per kind of action (R8) -/

@[simp] theorem perform_command (w : Word) (s : State) : perform (.command w) s = exec (decode w) s := rfl

@[simp] theorem perform_read (a : Half) (s : State) : perform (.read a) s = .next (performRead a s) := rfl

@[simp] theorem perform_reset (s : State) : perform .reset s = .next (performReset s) := rfl

/-- What a read returns depends neither on the actions still to come nor on those already taken. -/
@[simp] theorem readValue_with_pending (s : State) (rest : List HostAction) (a : Half) :
    readValue { s with pending := rest } a = readValue s a := rfl

/-- A read as the host sees it: one more value noted, one more draw used, and no other change (R42). -/
theorem performRead_with_pending (s : State) (rest : List HostAction) (a : Half) :
    performRead a { s with pending := rest } =
      { s with pending := rest, observed := s.observed ++ [readValue s a], draws := s.draws + 1 } := by
  rw [performRead, readValue_with_pending]

/-! ### A word placed in front of the list -/

/-- A word issued as the very next action is performed on the state it was placed in (R7). -/
theorem step_issueNext (w : Word) (s : State) : step (issueNext w s) = exec (decode w) s := by
  rw [step_of_pending_cons (issueNext_pending w s), perform_command]
  rfl

theorem withFetchWord_of_lt (s : State) {nbits w : Nat} (hw : w < 2 ^ nbits) :
    s.withFetchWord nbits w = issueNext (BitVec.ofNat 32 w) s := by
  rw [State.withFetchWord, Nat.mod_eq_of_lt hw]

theorem decodeTableWord_of_lt {nbits w : Nat} (hn : nbits ≤ 32) (hw : w < 2 ^ nbits) :
    decodeTableWord nbits w = some (decode (BitVec.ofNat 32 w)) :=
  if_pos ⟨hn, hw⟩

/-! ### The statement -/

/-- Settles O8: the first four clauses are the equations of `step` and `perform` for the three kinds of action and for
the empty list; the last one is that a word that fits its row is placed unchanged, in front of every other action. -/
theorem stepPerformsTheHostsNextAction : Obligations.StepPerformsTheHostsNextAction := by
  refine ⟨fun s w rest h => ?command, fun s a rest h => ?read, fun s rest h => ?reset,
    fun s h => step_of_pending_nil h, fun s nbits w hn hw => ⟨decodeTableWord_of_lt hn hw, ?placed⟩⟩
  case command => rw [step_of_pending_cons h, perform_command]
  case read => rw [step_of_pending_cons h, perform_read, performRead_with_pending]
  case reset => rw [step_of_pending_cons h, perform_reset]
  case placed => rw [withFetchWord_of_lt s hw, step_issueNext]

end Sys2Proof.Machine
end

section
/-! PROOFS. The result codes, and what the encoders' requests and the checks' verdicts can be (R85, R94 to R103). -/

namespace Sys2Proof.Machine

/-! ### Result codes (R103) -/

theorem ResultCode.code_le_nine (e : ResultCode) : e.code.toNat ≤ 9 := by
  cases e <;> decide

/-- OK is the only outcome whose code is 0. -/
@[simp] theorem ResultCode.code_eq_zero_iff (e : ResultCode) : e.code = 0#4 ↔ e = .ok := by
  cases e <;> decide

/-! ### What the encoders' frames and messages and DEC.READ's words measure (R97, R99) -/

/-- A frame holds at least its two CRC bytes (R74). -/
theorem appendCrc_ne_nil (m : List Byte) : appendCrc m ≠ [] :=
  List.ne_nil_of_length_pos (by rw [appendCrc_length]; omega)

/-- An encoder's request is an error other than OK, or a message no longer than a 0x10 request of `n` values. -/
def RequestWithin (n : Nat) (request : Except ResultCode (List Byte)) : Prop :=
  (∃ e, e ≠ .ok ∧ request = .error e) ∨ (∃ m, m.length ≤ 7 + 2 * n ∧ request = .ok m)

theorem readRequest_within (rangeOk : Half → Half → Bool) (slave : Option Byte) (addr arg : Option Half) (n : Nat) :
    RequestWithin n (readRequest rangeOk slave addr arg) := by
  obtain herr | ⟨S, A, v, -, -, -, -, -, hok⟩ := readRequest_cases rangeOk slave addr arg
  · exact .inl herr
  · exact .inr ⟨_, by rw [requestMessage_length]; omega, hok⟩

theorem writeRequest_within (slave : Option Byte) (addr arg : Option Half) (n : Nat) :
    RequestWithin n (writeRequest slave addr arg) := by
  obtain herr | ⟨S, A, v, -, -, -, hok⟩ := writeRequest_cases slave addr arg
  · exact .inl ⟨.operandUnset, by decide, herr⟩
  · exact .inr ⟨_, by rw [requestMessage_length]; omega, hok⟩

theorem writeMultipleRequest_within (slave : Option Byte) (addr : Option Half) (vals : List Half) :
    RequestWithin vals.length (writeMultipleRequest slave addr vals) := by
  obtain herr | ⟨S, A, -, -, -, hok⟩ := writeMultipleRequest_cases slave addr vals
  · exact .inl herr
  · exact .inr ⟨_, (writeMultipleMessage_length S A vals).le, hok⟩

theorem readVerdict_error_ne_ok {slave : Option Byte} {rxOvf : Bool} {rx : List Byte} {e : ResultCode} {k : Bool}
    (h : readVerdict slave rxOvf rx = .error (e, k)) : e ≠ .ok := by
  obtain ⟨e', k', hne, herr⟩ | ⟨-, -, -, -, -, -, hok⟩ := readVerdict_cases slave rxOvf rx
  · cases herr.symm.trans h
    exact hne
  · cases hok.symm.trans h

/-- The byte count is one byte and even, so the payload is at most 254 bytes (R99). -/
theorem readVerdict_ok_length {slave : Option Byte} {rxOvf : Bool} {rx : List Byte} {ws : List Half}
    (h : readVerdict slave rxOvf rx = .ok ws) : ws.length ≤ 127 := by
  obtain ⟨e, k, -, herr⟩ | ⟨-, -, -, -, -, -, hok⟩ := readVerdict_cases slave rxOvf rx
  · cases herr.symm.trans h
  · cases hok.symm.trans h
    have hcount := (frameByte rx 2).isLt
    rw [unpackWords_length, List.length_take]
    omega

/-! ### When a check reaches the CRC comparison and it holds (R22) -/

theorem rxVerdict_crcOk (rxOvf : Bool) (rx : List Byte) :
    (rxVerdict rxOvf rx).2 = true ↔ rxOvf = false ∧ 4 ≤ rx.length ∧ crcValid rx = true := by
  unfold rxVerdict
  split_ifs <;> simp_all

theorem ackVerdict_crcOk (expected : Byte) (slave : Option Byte) (rxOvf : Bool) (rx : List Byte) :
    (ackVerdict expected slave rxOvf rx).2 = true ↔
      slave ≠ none ∧ rxOvf = false ∧ 8 ≤ rx.length ∧ crcValid rx = true := by
  cases slave with
  | none => simp [ackVerdict]
  | some S =>
    simp only [ackVerdict]
    split_ifs <;> simp_all

theorem decReadEnd_readVerdict_crcOk (slave : Option Byte) (rxOvf : Bool) (rx : List Byte) (s : State) :
    (decReadEnd (readVerdict slave rxOvf rx) s).crcOk = true ↔
      slave ≠ none ∧ rxOvf = false ∧ 5 ≤ rx.length ∧ crcValid rx = true := by
  cases slave with
  | none => simp [readVerdict, decReadEnd]
  | some S =>
    simp only [readVerdict]
    split_ifs <;> simp_all [decReadEnd]

/-! ### A set overflow bit stops every check (R23) -/

@[simp] theorem rxVerdict_of_overflow (rx : List Byte) : rxVerdict true rx = (.overflow, false) := rfl

@[simp] theorem readVerdict_of_overflow (S : Byte) (rx : List Byte) :
    readVerdict (some S) true rx = .error (.overflow, false) := rfl

@[simp] theorem ackVerdict_of_overflow (expected S : Byte) (rx : List Byte) :
    ackVerdict expected (some S) true rx = (.overflow, false) := rfl

end Sys2Proof.Machine
end

section
/-! PROOFS. All that a command can do to the state, said once; the frame of each field follows from it (R18, R66). -/

namespace Sys2Proof.Machine

open Sys2Proof.Safety

/-- `CommandEffect s i t`: command `i` can take `s` to `t`. One constructor per row of the opcode map, and two where the
row's rule has two ends; the encoders share theirs. `exec_effect` ties it to `exec`. -/
inductive CommandEffect (s : State) : Instr → State → Prop
  | crcInit : CommandEffect s .crcInit { complete .ok s with crc := crcInitial }
  | crcByte (b : Byte) : CommandEffect s (.crcByte b) { complete .ok s with crc := crc16Step s.crc b }
  | rxStart : CommandEffect s .rxStart { checkEnd .ok false s with rx := [], rxOvf := false }
  | rxByteFits (b : Byte) (hfits : s.rx.length < 263) :
      CommandEffect s (.rxByte b) { complete .ok s with rx := s.rx ++ [b] }
  | rxByteFull (b : Byte) (hfull : 263 ≤ s.rx.length) :
      CommandEffect s (.rxByte b) { complete .overflow s with rxOvf := true }
  | rxCheck :
      CommandEffect s .rxCheck (checkEnd (rxVerdict s.rxOvf s.rx).1 (rxVerdict s.rxOvf s.rx).2 s)
  | setSlave (v : Byte) : CommandEffect s (.setSlave v) { complete .ok s with slave := some v }
  | setAddr (v : Half) : CommandEffect s (.setAddr v) { complete .ok s with addr := some v }
  | setArg (v : Half) : CommandEffect s (.setArg v) { complete .ok s with arg := some v }
  | valPushFits (v : Half) (hfits : s.vals.length < 127) :
      CommandEffect s (.valPush v) { complete .ok s with vals := s.vals ++ [v] }
  | valPushFull (v : Half) (hfull : 127 ≤ s.vals.length) :
      CommandEffect s (.valPush v) (complete .overflow s)
  | valClear : CommandEffect s .valClear { complete .ok s with vals := [] }
  | encFails {i : Instr} (henc : isEncoder i = true) (e : ResultCode) (hne : e ≠ .ok) :
      CommandEffect s i (encFail e s)
  | encBuilds {i : Instr} (henc : isEncoder i = true) (m : List Byte) (hlen : m.length ≤ 7 + 2 * s.vals.length) :
      CommandEffect s i (encBuild m s)
  | decReadFails (e : ResultCode) (k : Bool) (hverdict : readVerdict s.slave s.rxOvf s.rx = .error (e, k)) :
      CommandEffect s .decRead (decReadFail e k s)
  | decReadSucceeds (ws : List Half) (hverdict : readVerdict s.slave s.rxOvf s.rx = .ok ws) :
      CommandEffect s .decRead (decReadDone ws s)
  | decAck (f : Byte) :
      CommandEffect s (.decAck f)
        (checkEnd (ackVerdict f s.slave s.rxOvf s.rx).1 (ackVerdict f s.slave s.rxOvf s.rx).2 s)
  | illegal (w : Word) : CommandEffect s (.illegal w) (complete .illegalCommand s)

theorem encEnd_effect {i : Instr} {s : State} {request : Except ResultCode (List Byte)} (henc : isEncoder i = true)
    (hreq : RequestWithin s.vals.length request) : CommandEffect s i (encEnd request s) := by
  obtain ⟨e, hne, rfl⟩ | ⟨m, hlen, rfl⟩ := hreq
  · exact .encFails henc e hne
  · exact .encBuilds henc m hlen

/-- Every command completes, with one of the effects listed (R66, R105). -/
theorem exec_effect (i : Instr) (s : State) : ∃ t, exec i s = .next t ∧ CommandEffect s i t := by
  cases i with
  | crcInit => exact ⟨_, rfl, .crcInit⟩
  | crcByte b => exact ⟨_, rfl, .crcByte b⟩
  | rxStart => exact ⟨_, rfl, .rxStart⟩
  | rxByte b =>
    obtain ⟨hfits, h⟩ | ⟨hfull, h⟩ := execRxByte_cases b s
    · exact ⟨_, h, .rxByteFits b hfits⟩
    · exact ⟨_, h, .rxByteFull b hfull⟩
  | rxCheck => exact ⟨_, rfl, .rxCheck⟩
  | setSlave v => exact ⟨_, rfl, .setSlave v⟩
  | setAddr v => exact ⟨_, rfl, .setAddr v⟩
  | setArg v => exact ⟨_, rfl, .setArg v⟩
  | valPush v =>
    obtain ⟨hfits, h⟩ | ⟨hfull, h⟩ := execValPush_cases v s
    · exact ⟨_, h, .valPushFits v hfits⟩
    · exact ⟨_, h, .valPushFull v hfull⟩
  | valClear => exact ⟨_, rfl, .valClear⟩
  | encRead => exact ⟨_, rfl, encEnd_effect rfl (readRequest_within _ _ _ _ _)⟩
  | encWrite1 => exact ⟨_, rfl, encEnd_effect rfl (writeRequest_within _ _ _ _)⟩
  | encWriteN => exact ⟨_, rfl, encEnd_effect rfl (writeMultipleRequest_within _ _ _)⟩
  | decRead =>
    refine ⟨_, rfl, ?_⟩
    obtain ⟨e, k, hverdict, h⟩ | ⟨ws, hverdict, h⟩ := decReadEnd_cases (readVerdict s.slave s.rxOvf s.rx) s
    · exact h ▸ .decReadFails e k hverdict
    · exact h ▸ .decReadSucceeds ws hverdict
  | decAck f => exact ⟨_, rfl, .decAck f⟩
  | illegal w => exact ⟨_, rfl, .illegal w⟩

theorem effect_of_exec {i : Instr} {s t : State} (h : exec i s = .next t) : CommandEffect s i t := by
  obtain ⟨u, hu, heff⟩ := exec_effect i s
  cases hu.symm.trans h
  exact heff

/-! ### The frame of each field: every command but its writers keeps it -/

section Frames

variable {i : Instr} {s t : State} (h : CommandEffect s i t)
include h

/-- The codes 10 to 15 are never written (R21, R103). -/
theorem CommandEffect.result_le_nine : t.result.toNat ≤ 9 := by
  cases h <;> simp [ResultCode.code_le_nine]

theorem CommandEffect.keeps_crc (hinit : i ≠ .crcInit) (hbyte : ∀ b, i ≠ .crcByte b) : t.crc = s.crc := by
  cases h with
  | crcInit => exact absurd rfl hinit
  | crcByte b => exact absurd rfl (hbyte b)
  | _ => rfl

theorem CommandEffect.keeps_crcOk (hstart : i ≠ .rxStart) (hcheck : isCheck i = false) : t.crcOk = s.crcOk := by
  cases h with
  | rxStart => exact absurd rfl hstart
  | rxCheck | decReadFails | decReadSucceeds | decAck => cases hcheck
  | _ => rfl

theorem CommandEffect.keeps_rx (hstart : i ≠ .rxStart) (hbyte : ∀ b, i ≠ .rxByte b) :
    t.rxOvf = s.rxOvf ∧ t.rx = s.rx := by
  cases h with
  | rxStart => exact absurd rfl hstart
  | rxByteFits b | rxByteFull b => exact absurd rfl (hbyte b)
  | _ => exact ⟨rfl, rfl⟩

theorem CommandEffect.keeps_tx (hnot : isEncoder i = false) : t.txValid = s.txValid ∧ t.tx = s.tx := by
  cases h with
  | encFails henc | encBuilds henc => cases henc.symm.trans hnot
  | _ => exact ⟨rfl, rfl⟩

theorem CommandEffect.keeps_words (hnot : i ≠ .decRead) : t.wordsValid = s.wordsValid ∧ t.words = s.words := by
  cases h with
  | decReadFails | decReadSucceeds => exact absurd rfl hnot
  | _ => exact ⟨rfl, rfl⟩

theorem CommandEffect.keeps_slave (hnot : ∀ v, i ≠ .setSlave v) : t.slave = s.slave := by
  cases h with
  | setSlave v => exact absurd rfl (hnot v)
  | _ => rfl

theorem CommandEffect.keeps_addr (hnot : ∀ v, i ≠ .setAddr v) : t.addr = s.addr := by
  cases h with
  | setAddr v => exact absurd rfl (hnot v)
  | _ => rfl

theorem CommandEffect.keeps_arg (hnot : ∀ v, i ≠ .setArg v) : t.arg = s.arg := by
  cases h with
  | setArg v => exact absurd rfl (hnot v)
  | _ => rfl

theorem CommandEffect.keeps_vals (hpush : ∀ v, i ≠ .valPush v) (hclear : i ≠ .valClear) : t.vals = s.vals := by
  cases h with
  | valPushFits v | valPushFull v => exact absurd rfl (hpush v)
  | valClear => exact absurd rfl hclear
  | _ => rfl

/-- No command touches the host's side of the run (log entries 1, 4, 5). -/
theorem CommandEffect.keeps_host :
    t.pending = s.pending ∧ t.observed = s.observed ∧ t.draws = s.draws ∧ t.resetSeen = s.resetSeen := by
  cases h <;> exact ⟨rfl, rfl, rfl, rfl⟩

/-- RX.BYTE can only set the overflow bit; RX.START alone clears it (R23). -/
theorem CommandEffect.keeps_overflow (hovf : s.rxOvf = true) (hstart : i ≠ .rxStart) : t.rxOvf = true := by
  cases h with
  | rxStart => exact absurd rfl hstart
  | rxByteFull => rfl
  | _ => exact hovf

end Frames

/-- Settles O21: the frames of the fields, put together. -/
theorem onlyTheNamedCommandsWriteAField : Obligations.OnlyTheNamedCommandsWriteAField := by
  intro i s t h
  have heff := effect_of_exec h
  exact ⟨heff.keeps_crc, heff.keeps_crcOk, heff.keeps_rx, heff.keeps_tx, heff.keeps_words, heff.keeps_slave,
    heff.keeps_addr, heff.keeps_arg, heff.keeps_vals, heff.keeps_host⟩

end Sys2Proof.Machine
end

section
/-! PROOFS. The invariants of the state (R37): they hold at reset, and every step keeps them. -/

namespace Sys2Proof.Safety

open Sys2Proof.Machine

theorem legal_reset : Legal State.reset := by
  constructor <;> simp [State.reset]

/-- The invariants speak of the unit alone, and a reset gives the unit its reset values (R115). -/
theorem legal_performReset (s : State) : Legal (performReset s) := { legal_reset with }

/-- Settles O16: by the two lemmas above. -/
theorem resetStateIsLegal : Obligations.ResetStateIsLegal := ⟨legal_reset, legal_performReset⟩

/-! ### The shared operations keep the invariants -/

section Keeps

variable {s : State} (hs : Legal s)
include hs

theorem legal_complete (e : ResultCode) : Legal (complete e s) := { hs with result_legal := e.code_le_nine }

theorem legal_checkEnd (e : ResultCode) (k : Bool) : Legal (checkEnd e k s) := { legal_complete hs e with }

theorem legal_encFail (e : ResultCode) : Legal (encFail e s) :=
  { legal_complete hs e with
    tx_fits := Nat.zero_le _
    tx_valid_iff := by simp }

/-- A built frame fits TX_CAP because the values fit VAL_CAP: 7 + 2 * 127 + 2 = 263 (R97). -/
theorem legal_encBuild {m : List Byte} (hlen : m.length ≤ 7 + 2 * s.vals.length) : Legal (encBuild m s) :=
  { legal_complete hs .ok with
    tx_fits := by
      have hvals := hs.vals_fit
      rw [encBuild_tx, appendCrc_length]
      omega
    tx_valid_iff := ⟨fun _ => appendCrc_ne_nil m, fun _ => encBuild_txValid m s⟩ }

theorem legal_decReadFail (e : ResultCode) (k : Bool) : Legal (decReadFail e k s) :=
  { legal_checkEnd hs e k with
    words_fit := Nat.zero_le _
    words_empty := fun _ => decReadFail_words e k s }

theorem legal_decReadDone {ws : List Half} (hlen : ws.length ≤ 127) : Legal (decReadDone ws s) :=
  { legal_checkEnd hs .ok true with
    words_fit := hlen
    words_empty := by simp }

/-! ### Every command, read and reset keeps them -/

theorem legal_of_effect {i : Instr} {t : State} (h : CommandEffect s i t) : Legal t := by
  cases h with
  | crcInit | crcByte | setSlave | setAddr | setArg => exact { legal_complete hs .ok with }
  | rxStart => exact { legal_checkEnd hs .ok false with rx_fits := Nat.zero_le _ }
  | rxByteFits b hfits => exact { legal_complete hs .ok with rx_fits := by simpa using hfits }
  | rxByteFull => exact { legal_complete hs .overflow with }
  | valPushFits v hfits => exact { legal_complete hs .ok with vals_fit := by simpa using hfits }
  | valPushFull => exact legal_complete hs .overflow
  | valClear => exact { legal_complete hs .ok with vals_fit := Nat.zero_le _ }
  | rxCheck | decAck => exact legal_checkEnd hs _ _
  | encFails henc e => exact legal_encFail hs e
  | encBuilds henc m hlen => exact legal_encBuild hs hlen
  | decReadFails e k => exact legal_decReadFail hs e k
  | decReadSucceeds ws hverdict => exact legal_decReadDone hs (readVerdict_ok_length hverdict)
  | illegal => exact legal_complete hs .illegalCommand

theorem legal_performRead (a : Half) : Legal (performRead a s) := { hs with }

/-- The actions still to come are no part of the unit. -/
theorem legal_with_pending (rest : List HostAction) : Legal { s with pending := rest } := { hs with }

theorem perform_keeps_legal (a : HostAction) : ∃ t, perform a s = .next t ∧ Legal t := by
  cases a with
  | command w =>
    obtain ⟨t, ht, heff⟩ := exec_effect (decode w) s
    exact ⟨t, ht, legal_of_effect hs heff⟩
  | read a => exact ⟨_, rfl, legal_performRead hs a⟩
  | reset => exact ⟨_, rfl, legal_performReset s⟩

end Keeps

/-- Settles O17: a step waits, or performs the oldest action on a state that differs in the pending actions alone. -/
theorem everyStepKeepsTheStateLegal : Obligations.EveryStepKeepsTheStateLegal := by
  intro s hs
  cases hpending : s.pending with
  | nil => exact ⟨s, step_of_pending_nil hpending, hs⟩
  | cons a rest =>
    rw [step_of_pending_cons hpending]
    exact perform_keeps_legal (legal_with_pending hs rest) a

end Sys2Proof.Safety
end

section
/-! PROOFS. What no command reads: the old result code, and outside the CRC engine the CRC register (R19, R21, R123). -/

namespace Sys2Proof.Machine

/-- Every meaning starts by recording its own outcome, which overwrites the old one; none reads it first (R21). -/
theorem exec_with_result (i : Instr) (s : State) (r : BitVec 4) : exec i { s with result := r } = exec i s := by
  cases i <;> rfl

/-- Settles O20: the code is one of R103's, and the old one is overwritten unread. -/
theorem everyCommandWritesALegalResult : Obligations.EveryCommandWritesALegalResult := by
  refine ⟨rfl, fun i s => ⟨?_, exec_with_result i s⟩⟩
  obtain ⟨t, ht, heff⟩ := exec_effect i s
  exact ⟨t, ht, heff.result_le_nine⟩

theorem encEnd_with_crc (request : Except ResultCode (List Byte)) (s : State) (c : Half) :
    encEnd request { s with crc := c } = { encEnd request s with crc := c } := by
  cases request <;> rfl

theorem decReadEnd_with_crc (verdict : Except (ResultCode × Bool) (List Half)) (s : State) (c : Half) :
    decReadEnd verdict { s with crc := c } = { decReadEnd verdict s with crc := c } := by
  cases verdict <;> rfl

/-- Outside the CRC engine another value of `crc` passes through a command untouched (R123). -/
theorem exec_with_crc {i : Instr} {s t : State} (c : Half) (hinit : i ≠ .crcInit) (hbyte : ∀ b, i ≠ .crcByte b)
    (h : exec i s = .next t) : exec i { s with crc := c } = .next { t with crc := c } := by
  cases i with
  | crcInit => exact absurd rfl hinit
  | crcByte b => exact absurd rfl (hbyte b)
  | rxByte b =>
    simp only [exec, execRxByte] at h ⊢
    split_ifs at h ⊢ <;> (cases h; rfl)
  | valPush v =>
    simp only [exec, execValPush] at h ⊢
    split_ifs at h ⊢ <;> (cases h; rfl)
  | encRead | encWrite1 | encWriteN => cases h; exact congrArg _ (encEnd_with_crc _ s c)
  | decRead => cases h; exact congrArg _ (decReadEnd_with_crc _ s c)
  | _ => cases h; rfl

/-- Settles O23: the frame of `crc`, and its value passing through. -/
theorem framerAndValidatorIgnoreTheCrcRegister : Obligations.FramerAndValidatorIgnoreTheCrcRegister :=
  fun _ _ _ c hinit hbyte h => ⟨(effect_of_exec h).keeps_crc hinit hbyte, exec_with_crc c hinit hbyte h⟩

end Sys2Proof.Machine
end

section
/-! PROOFS. The four flags, each by its writers (R22 to R25). -/

namespace Sys2Proof.Machine

open Sys2Proof.Safety

/-! ### `crc_ok` (R22) -/

/-- Settles O41: each check's own condition, and the frame of `crc_ok`. -/
theorem crcOkSaysTheComparisonHeld : Obligations.CrcOkSaysTheComparisonHeld := by
  refine ⟨fun s t h => ?rxCheck, fun s t h => ?decRead, fun f s t h => ?decAck, fun s t h => ?rxStart,
    fun i s t hstart hcheck h => (effect_of_exec h).keeps_crcOk hstart hcheck, rfl⟩
  case rxCheck => cases h; exact rxVerdict_crcOk s.rxOvf s.rx
  case decRead => cases h; exact decReadEnd_readVerdict_crcOk s.slave s.rxOvf s.rx s
  case decAck => cases h; exact ackVerdict_crcOk f s.slave s.rxOvf s.rx
  case rxStart => cases h; rfl

/-! ### `tx_valid` (R24) -/

/-- An encoder fails with a code other than 0 and no frame, or builds a message with its CRC. -/
theorem CommandEffect.txValid_of_encoder {i : Instr} {s t : State} (h : CommandEffect s i t)
    (henc : isEncoder i = true) :
    (t.txValid = true ↔ t.result = 0) ∧ (t.txValid = true ↔ t.tx ≠ []) ∧
      (t.txValid = true → ∃ m, t.tx = appendCrc m) := by
  cases h with
  | encFails _ e hne => simp [hne]
  | encBuilds _ m => simp [appendCrc_ne_nil]
  | _ => cases henc

/-- Settles O48: the two ends of an encoder, and the frame of `tx_valid`. -/
theorem txValidFollowsTheLastEncoder : Obligations.TxValidFollowsTheLastEncoder :=
  ⟨fun _ _ _ henc h => (effect_of_exec h).txValid_of_encoder henc,
    fun _ _ _ hnot h => ((effect_of_exec h).keeps_tx hnot).1, rfl⟩

/-! ### `words_valid` (R25) -/

theorem CommandEffect.wordsValid_of_decRead {s t : State} (h : CommandEffect s .decRead t) :
    (t.wordsValid = true ↔ t.result = 0) ∧ (t.result ≠ 0 → t.words = []) := by
  cases h with
  | encFails henc | encBuilds henc => cases henc
  | decReadFails e k hverdict => simp [readVerdict_error_ne_ok hverdict]
  | decReadSucceeds ws => simp

/-- Settles O53: the two ends of DEC.READ, and the frame of the words. -/
theorem wordsValidFollowsTheLastDecRead : Obligations.WordsValidFollowsTheLastDecRead :=
  ⟨fun _ _ h => (effect_of_exec h).wordsValid_of_decRead,
    fun _ _ _ hnot h => (effect_of_exec h).keeps_words hnot, rfl, rfl⟩

/-! ### `rx_ovf` (R23) -/

theorem CommandEffect.rxOvf_of_full {b : Byte} {s t : State} (h : CommandEffect s (.rxByte b) t)
    (hfull : 263 ≤ s.rx.length) : t.rxOvf = true := by
  cases h with
  | rxByteFits _ hfits => omega
  | rxByteFull => rfl
  | encFails henc | encBuilds henc => cases henc

/-- A check under a set overflow bit ends in Overflow; the decoders' check of the slave id comes before it (log entry
10), so it must be set. -/
theorem check_of_overflow {i : Instr} {s : State} (hcheck : isCheck i = true) (hovf : s.rxOvf = true)
    (hslave : i = .rxCheck ∨ s.slave ≠ none) : ∃ t, exec i s = .next t ∧ t.result = 7 ∧ t.crcOk = false := by
  cases i with
  | rxCheck => exact ⟨_, rfl, by simp [hovf, ResultCode.code]⟩
  | decRead =>
    obtain ⟨S, hS⟩ := Option.ne_none_iff_exists'.mp (hslave.resolve_left (by simp))
    exact ⟨_, rfl, by simp [hS, hovf, decReadEnd, ResultCode.code]⟩
  | decAck f =>
    obtain ⟨S, hS⟩ := Option.ne_none_iff_exists'.mp (hslave.resolve_left (by simp))
    exact ⟨_, rfl, by simp [hS, hovf, ResultCode.code]⟩
  | _ => cases hcheck

/-- Settles O58: what sets the bit, keeps it, clears it, and what it blocks. -/
theorem overflowBitIsStickyAndBlocksChecks : Obligations.OverflowBitIsStickyAndBlocksChecks :=
  ⟨fun _ _ _ hfull h => (effect_of_exec h).rxOvf_of_full hfull,
    fun _ _ _ hovf hstart h => (effect_of_exec h).keeps_overflow hovf hstart,
    fun _ _ h => by cases h; rfl,
    fun _ _ hcheck hovf hslave => check_of_overflow hcheck hovf hslave⟩

end Sys2Proof.Machine
end

section
/-! PROOFS. Without the framer the decoder yields no framer command, so nothing writes the framer's fields (R38). -/

namespace Sys2Proof.Safety

open Sys2Proof.Machine

theorem commandOf_isFramer_of_lt {w : Word} (h : (opcodeOf w).toNat < 6) : (commandOf w).isFramer = false := by
  unfold commandOf
  interval_cases (opcodeOf w).toNat <;> rfl

theorem legalWordWith_false_opcode {w : Word} (h : legalWordWith false w = true) : (opcodeOf w).toNat < 6 := by
  unfold legalWordWith at h
  split at h
  · cases h
  · simpa [opcodeOf] using (Bool.and_eq_true_iff.mp h).2

theorem decodeWith_false_isFramer (w : Word) : (decodeWith false w).isFramer = false := by
  rw [decodeWith_eq]
  split
  next hlegal => exact commandOf_isFramer_of_lt (legalWordWith_false_opcode hlegal)
  next => rfl

theorem isEncoder_of_not_isFramer {i : Instr} (h : i.isFramer = false) : isEncoder i = false := by
  cases i with
  | encRead | encWrite1 | encWriteN => cases h
  | _ => rfl

/-- Each writer of a framer's field is a framer command (R38). -/
theorem FramerAtReset.of_effect {i : Instr} {s t : State} (hs : FramerAtReset s) (h : CommandEffect s i t)
    (hi : i.isFramer = false) : FramerAtReset t := by
  have not_framer {j : Instr} (hj : j.isFramer = true) : i ≠ j := fun hij => by simp [hij, hj] at hi
  obtain ⟨htxValid, htx⟩ := h.keeps_tx (isEncoder_of_not_isFramer hi)
  obtain ⟨hwordsValid, hwords⟩ := h.keeps_words (not_framer rfl)
  exact {
    txValid := htxValid.trans hs.txValid
    wordsValid := hwordsValid.trans hs.wordsValid
    slave := (h.keeps_slave fun _ => not_framer rfl).trans hs.slave
    addr := (h.keeps_addr fun _ => not_framer rfl).trans hs.addr
    arg := (h.keeps_arg fun _ => not_framer rfl).trans hs.arg
    vals := (h.keeps_vals (fun _ => not_framer rfl) (not_framer rfl)).trans hs.vals
    tx := htx.trans hs.tx
    words := hwords.trans hs.words }

/-- Settles O25, by induction on the words written. -/
theorem withoutTheFramerItsFieldsStayAtReset : Obligations.WithoutTheFramerItsFieldsStayAtReset := by
  intro ws
  induction ws with
  | nil => exact fun s hs => ⟨s, rfl, hs⟩
  | cons w ws ih =>
    intro s hs
    obtain ⟨u, hu, heff⟩ := exec_effect (decodeWith false w) s
    obtain ⟨t, ht, hfinal⟩ := ih u (hs.of_effect heff (decodeWith_false_isFramer w))
    exact ⟨t, (runWordsWith_cons_of_next ws hu).trans ht, hfinal⟩

end Sys2Proof.Safety
end

section
/-! PROOFS. STATUS and CONFIG bit by bit (R20, R26), and several units side by side (R39). -/

namespace Sys2Proof.Machine

theorem statusBit_getLsbD (b : Bool) {j : Nat} (hj : j < 16) (k : Nat) :
    (statusBit b j).getLsbD k = (decide (k = j) && b) := by
  simp only [statusBit, BitVec.getLsbD_shiftLeft, BitVec.getLsbD_setWidth, BitVec.getLsbD_ofBool]
  obtain hlt | rfl | hgt := lt_trichotomy k j
  · simp [hlt, hlt.ne]
  · simp [hj]
  · simp [hgt.ne', Nat.sub_eq_zero_iff_le, hgt]

theorem statusWith_reset (hasFramer : Bool) : statusWith hasFramer State.reset = 0x0000 := by
  cases hasFramer <;> decide

/-- Settles O12: each term of STATUS holds its own bits, and no two share one. -/
theorem statusIsAssembledFromItsFields : Obligations.StatusIsAssembledFromItsFields := by
  refine ⟨fun _ _ => rfl, statusWith_reset, fun hasFramer s k => ?_⟩
  simp only [statusWith, BitVec.getLsbD_or, BitVec.getLsbD_setWidth, statusBit_getLsbD, Nat.reduceLT]
  by_cases hk : k ≤ 10
  · interval_cases k <;> simp
  · have hresult : s.result.getLsbD k = false := BitVec.getLsbD_of_ge s.result k (by omega)
    have hne {j : Nat} (hj : j ≤ 10) : k ≠ j := by omega
    simp [hresult, hne, show ¬k ≤ 3 by omega]

/-- Settles O13: CONFIG is one status bit, and reads no field of the state. -/
theorem configIsAConstant : Obligations.ConfigIsAConstant :=
  fun hasFramer _ => ⟨configWith hasFramer, rfl, statusBit_getLsbD hasFramer (by decide)⟩

theorem stepInstance_of_next {units : List State} {k : Nat} {s t : State} (hunit : units[k]? = some s)
    (hstep : step s = .next t) : stepInstance k units = units.set k t := by
  simp only [stepInstance, hunit, hstep]

/-- Settles O26: a step of unit `k` writes entry `k` of the list and no other. -/
theorem unitsShareNoState : Obligations.UnitsShareNoState := by
  intro units k j s t hunit hstep
  obtain ⟨hk, -⟩ := List.getElem?_eq_some_iff.mp hunit
  rw [stepInstance_of_next hunit hstep]
  exact ⟨List.getElem?_set_self hk, fun hne => List.getElem?_set_ne hne.symm⟩

end Sys2Proof.Machine
end

section
/-! PROOFS. Command words on a byte-wide bus (R46, R48). -/

namespace Sys2Proof

/-- A word is its four bytes, the highest first. -/
theorem wordByte_append (w : Word) : wordByte w 3 ++ wordByte w 2 ++ wordByte w 1 ++ wordByte w 0 = w := by
  apply BitVec.eq_of_getLsbD_eq
  intro k hk
  simp only [wordByte, BitVec.getLsbD_append, BitVec.getLsbD_extractLsb']
  interval_cases k <;> simp

/-- An order that carries each byte once carries every byte, so what is found at the position of `k` is what was
sent for `k`. -/
theorem carried_of_wf {o : Config.CmdByteOrder} (ho : o.wf) {α : Type} (sent : Fin 4 → α) (k : Fin 4) :
    (if o.first = k then sent o.first else if o.second = k then sent o.second
      else if o.third = k then sent o.third else sent o.fourth) = sent k := by
  split_ifs with h1 h2 h3
  · rw [h1]
  · rw [h2]
  · rw [h3]
  · have hlast : o.fourth = k := by
      simp only [Config.CmdByteOrder.wf, List.nodup_cons, List.mem_cons, List.not_mem_nil, or_false, not_or] at ho
      omega
    rw [hlast]

theorem assembleWord_of_wf {o : Config.CmdByteOrder} (ho : o.wf) (w : Word) :
    assembleWord o (wordByte w o.first) (wordByte w o.second) (wordByte w o.third) (wordByte w o.fourth) = w := by
  simp only [assembleWord, carried_of_wf ho (wordByte w), wordByte_append]

theorem decodeBytes_serialiseWord {o : Config.CmdByteOrder} (ho : o.wf) (w : Word) (rest : List Byte) :
    decodeBytes o (serialiseWord o w ++ rest) = some (decode w, rest) := by
  simp only [serialiseWord, List.cons_append, List.nil_append, decodeBytes, assembleWord_of_wf ho]

/-- "The command port takes only whole 32-bit words" (R48). -/
theorem decodeBytes_of_length_lt (o : Config.CmdByteOrder) :
    ∀ bs : List Byte, bs.length < 4 → decodeBytes o bs = none
  | [], _ | [_], _ | [_, _], _ | [_, _, _], _ => rfl
  | _ :: _ :: _ :: _ :: rest, h => absurd h (by simp)

/-- Settles O6: the bytes of a word by position, put together again, are the word. -/
theorem commandWordSurvivesAnyByteOrder : Obligations.CommandWordSurvivesAnyByteOrder :=
  ⟨fun _ _ => rfl, fun _ w rest ho => decodeBytes_serialiseWord ho w rest, decodeBytes_of_length_lt⟩

end Sys2Proof
end

section
/-! PROOFS. A sequence of command words runs as its commands, in order (R56). -/

namespace Sys2Proof.Machine

open Sys2Proof.Safety

theorem encEnd_with_pending (request : Except ResultCode (List Byte)) (s : State) (rest : List HostAction) :
    encEnd request { s with pending := rest } = { encEnd request s with pending := rest } := by
  cases request <;> rfl

theorem decReadEnd_with_pending (verdict : Except (ResultCode × Bool) (List Half)) (s : State)
    (rest : List HostAction) :
    decReadEnd verdict { s with pending := rest } = { decReadEnd verdict s with pending := rest } := by
  cases verdict <;> rfl

/-- No command sees the actions still to come: they pass through it untouched (log entry 1). -/
theorem exec_with_pending {i : Instr} {s t : State} (rest : List HostAction) (h : exec i s = .next t) :
    exec i { s with pending := rest } = .next { t with pending := rest } := by
  cases i with
  | rxByte b =>
    simp only [exec, execRxByte] at h ⊢
    split_ifs at h ⊢ <;> (cases h; rfl)
  | valPush v =>
    simp only [exec, execValPush] at h ⊢
    split_ifs at h ⊢ <;> (cases h; rfl)
  | encRead | encWrite1 | encWriteN => cases h; exact congrArg _ (encEnd_with_pending _ s rest)
  | decRead => cases h; exact congrArg _ (decReadEnd_with_pending _ s rest)
  | _ => cases h; rfl

/-- A step on a command word performs it, whatever the host issues after it (R7, R56). -/
theorem step_command_of_exec {w : Word} {s t : State} (rest : List HostAction) (h : exec (decode w) s = .next t) :
    step { s with pending := .command w :: rest } = .next { t with pending := rest } := by
  rw [step_of_pending_cons rfl, perform_command, ← exec_with_pending rest h]

/-- Settles O9, by induction on the words: the first one's command is performed the same with the other words still to
come and with none. -/
theorem commandsTakeEffectInIssueOrder : Obligations.CommandsTakeEffectInIssueOrder := by
  intro ws
  induction ws with
  | nil => exact fun _ => rfl
  | cons w ws ih =>
    intro s
    obtain ⟨t, ht, -⟩ := exec_effect (decode w) s
    have hrest := ih t
    rw [← runInstrs_cons_of_next _ (exec_with_pending [] ht)] at hrest
    exact (run_succ_of_next _ (step_command_of_exec _ ht)).trans hrest

end Sys2Proof.Machine
end

section
/-! PROOFS. The read port: its map row by row (R41), and reads that change nothing (R42). -/

namespace Sys2Proof.Machine

open Sys2Proof.Safety

/-! ### The map (R41) -/

/-- The rows of R41 above index 0x009: the four buffer windows, and nothing between and after them.
`readPortWith_eq_readWindows` ties it to the map. -/
def readWindows (hasFramer : Bool) (s : State) (i : Nat) : Option Half :=
  if 0x100 ≤ i ∧ i < 0x17F then framerValue hasFramer s.vals[i - 0x100]?
  else if 0x200 ≤ i ∧ i < 0x307 then s.rx[i - 0x200]?.map (BitVec.setWidth 16)
  else if 0x400 ≤ i ∧ i < 0x507 then framerValue hasFramer (s.tx[i - 0x400]?.map (BitVec.setWidth 16))
  else if 0x600 ≤ i ∧ i < 0x67F then framerValue hasFramer s.words[i - 0x600]?
  else none

theorem readPortWith_eq_readWindows (hasFramer : Bool) (s : State) {a : Half} (ha : 0x009 < a.toNat) :
    readPortWith hasFramer s a = readWindows hasFramer s a.toNat := by
  have hne {n : Half} (hn : n.toNat ≤ 0x009) : a ≠ n := fun h => by subst h; omega
  simp (disch := decide) only [readPortWith, hne, if_false]
  rfl

theorem readPortWith_ofNat (hasFramer : Bool) (s : State) {n : Nat} (hlow : 0x009 < n) (hhigh : n < 2 ^ 16) :
    readPortWith hasFramer s (BitVec.ofNat 16 n) = readWindows hasFramer s n := by
  have hn : (BitVec.ofNat 16 n).toNat = n := Nat.mod_eq_of_lt hhigh
  rw [readPortWith_eq_readWindows hasFramer s (hn.symm ▸ hlow), hn]

section Windows

variable (hasFramer : Bool) (s : State) {i : Nat}

theorem readPortWith_vals (hi : i < 127) :
    readPortWith hasFramer s (BitVec.ofNat 16 (0x100 + i)) = framerValue hasFramer s.vals[i]? := by
  rw [readPortWith_ofNat hasFramer s (by omega) (by omega), readWindows, if_pos (by omega), Nat.add_sub_cancel_left]

theorem readPortWith_rx (hi : i < 263) :
    readPortWith hasFramer s (BitVec.ofNat 16 (0x200 + i)) = s.rx[i]?.map (BitVec.setWidth 16) := by
  rw [readPortWith_ofNat hasFramer s (by omega) (by omega), readWindows, if_neg (by omega), if_pos (by omega),
    Nat.add_sub_cancel_left]

theorem readPortWith_tx (hi : i < 263) :
    readPortWith hasFramer s (BitVec.ofNat 16 (0x400 + i)) =
      framerValue hasFramer (s.tx[i]?.map (BitVec.setWidth 16)) := by
  rw [readPortWith_ofNat hasFramer s (by omega) (by omega), readWindows, if_neg (by omega), if_neg (by omega),
    if_pos (by omega), Nat.add_sub_cancel_left]

theorem readPortWith_words (hi : i < 127) :
    readPortWith hasFramer s (BitVec.ofNat 16 (0x600 + i)) = framerValue hasFramer s.words[i]? := by
  rw [readPortWith_ofNat hasFramer s (by omega) (by omega), readWindows, if_neg (by omega), if_neg (by omega),
    if_neg (by omega), if_pos (by omega), Nat.add_sub_cancel_left]

theorem readPortWith_unmapped {a : Half} (hlow : 0x009 < a.toNat) (hvals : ¬(0x100 ≤ a.toNat ∧ a.toNat ≤ 0x17E))
    (hrx : ¬(0x200 ≤ a.toNat ∧ a.toNat ≤ 0x306)) (htx : ¬(0x400 ≤ a.toNat ∧ a.toNat ≤ 0x506))
    (hwords : ¬(0x600 ≤ a.toNat ∧ a.toNat ≤ 0x67E)) : readPortWith hasFramer s a = none := by
  rw [readPortWith_eq_readWindows hasFramer s hlow, readWindows, if_neg (by omega), if_neg (by omega),
    if_neg (by omega), if_neg (by omega)]

end Windows

/-- Settles O10: the ten single indices hold by the definition of the map; then the windows, and the rest. -/
theorem readPortMap : Obligations.ReadPortMap := fun hasFramer s =>
  ⟨rfl, rfl, rfl, rfl, rfl, rfl, rfl, rfl, rfl, rfl, fun _ => readPortWith_vals hasFramer s,
    fun _ => readPortWith_rx hasFramer s, fun _ => readPortWith_tx hasFramer s,
    fun _ => readPortWith_words hasFramer s, fun _ => readPortWith_unmapped hasFramer s⟩

/-! ### Reads (R42) -/

theorem readPort_of_resetSeen {s : State} (h : s.resetSeen = true) (a : Half) :
    readPort s a = readPortWith true s a := if_pos h

theorem readValue_of_specified {s : State} {a v : Half} (h : s.resetSeen = true)
    (hv : readPortWith true s a = some v) : readValue s a = v := by
  rw [readValue, readPort_of_resetSeen h, hv, Option.getD_some]

/-- A read moves only the host's side of the run, which no row of the map shows. -/
@[simp] theorem readPortWith_performRead (hasFramer : Bool) (s : State) (a b : Half) :
    readPortWith hasFramer (performRead a s) b = readPortWith hasFramer s b := rfl

theorem step_read (a : Half) (s : State) (rest : List HostAction) :
    step { s with pending := .read a :: rest } = .next { performRead a s with pending := rest } := by
  rw [step_of_pending_cons rfl, perform_read]
  rfl

/-- Settles O11, by induction on the reads: each one leaves the unit, and with it the map, to the next. -/
theorem readsHaveNoSideEffect : Obligations.ReadsHaveNoSideEffect := by
  refine ⟨fun s a h => readPort_of_resetSeen h a, fun as => ?_⟩
  induction as with
  | nil => exact fun s => ⟨{ s with pending := [] }, [], rfl, by constructor <;> rfl, rfl, rfl, by simp⟩
  | cons a as ih =>
    intro s
    obtain ⟨t, vs, hrun, hunit, hpending, hseen, hobserved, hlength, hvalues⟩ := ih (performRead a s)
    refine ⟨t, readValue s a :: vs, (run_succ_of_next _ (step_read a s _)).trans hrun, { hunit with }, hpending, hseen,
      by simp [hobserved], by simp [hlength], fun k b v hreset hk hv => ?_⟩
    cases k with
    | zero =>
      obtain rfl : a = b := by simpa using hk
      exact congrArg some (readValue_of_specified hreset hv)
    | succ k => exact hvalues k b v hreset hk ((readPortWith_performRead true s a b).trans hv)

end Sys2Proof.Machine
end

section
/-! PROOFS. A command issued again right away (R50, R107). -/

namespace Sys2Proof.Machine

open Sys2Proof.Safety

/-! ### The ends of an encoder and of DEC.READ keep what their commands read, and come out the same a second time -/

theorem encEnd_keeps_operands (request : Except ResultCode (List Byte)) (s : State) :
    (encEnd request s).slave = s.slave ∧ (encEnd request s).addr = s.addr ∧ (encEnd request s).arg = s.arg ∧
      (encEnd request s).vals = s.vals := by
  cases request <;> exact ⟨rfl, rfl, rfl, rfl⟩

theorem encEnd_encEnd (request : Except ResultCode (List Byte)) (s : State) :
    encEnd request (encEnd request s) = encEnd request s := by
  cases request <;> rfl

theorem decReadEnd_keeps_frame (verdict : Except (ResultCode × Bool) (List Half)) (s : State) :
    (decReadEnd verdict s).slave = s.slave ∧ (decReadEnd verdict s).rxOvf = s.rxOvf ∧
      (decReadEnd verdict s).rx = s.rx := by
  cases verdict <;> exact ⟨rfl, rfl, rfl⟩

theorem decReadEnd_decReadEnd (verdict : Except (ResultCode × Bool) (List Half)) (s : State) :
    decReadEnd verdict (decReadEnd verdict s) = decReadEnd verdict s := by
  cases verdict <;> rfl

/-- Settles O24: the second time the command reads the same operands or the same frame, so it ends the same way. -/
theorem reissuedEncoderOrCheckChangesNothing : Obligations.ReissuedEncoderOrCheckChangesNothing := by
  intro i s t hkind h
  cases i with
  | encRead | encWrite1 | encWriteN =>
    cases h
    simp only [exec, execEncRead, encReadWith, execEncWrite1, execEncWriteN, encEnd_keeps_operands, encEnd_encEnd]
  | decRead =>
    cases h
    simp only [exec, execDecRead, decReadEnd_keeps_frame, decReadEnd_decReadEnd]
  | rxCheck | decAck => cases h; rfl
  | _ => simp [isEncoder, isCheck] at hkind

end Sys2Proof.Machine
end

section
/-! PROOFS. The fingers of a packed read of the remote device (R54). -/

namespace Sys2Proof.Machine

theorem packedFinger_of_even {ws : List Half} {f : Finger} {w : Half} (hw : ws[f.number / 2]? = some w)
    (heven : f.number % 2 = 0) : packedFinger ws f = some (loByte w) := by
  rw [packedFinger, hw, Option.map_some, if_pos heven]

theorem packedFinger_of_odd {ws : List Half} {f : Finger} {w : Half} (hw : ws[f.number / 2]? = some w)
    (hodd : f.number % 2 = 1) : packedFinger ws f = some (hiByte w) := by
  rw [packedFinger, hw, Option.map_some, if_neg (by omega)]

/-- Settles O60: the even and the odd fingers by turns. -/
theorem packedFingersLowByteFirst : Obligations.PackedFingersLowByteFirst := fun _ _ _ =>
  ⟨packedFinger_of_even rfl rfl, packedFinger_of_odd rfl rfl, packedFinger_of_even rfl rfl,
    packedFinger_of_odd rfl rfl, packedFinger_of_even rfl rfl, packedFinger_of_odd rfl rfl⟩

end Sys2Proof.Machine
end

section
/-! PROOFS. Decoding and encoding are inverse on the well-formed commands (R61 to R69). -/

namespace Sys2Proof

/-! ### What the encoder makes is a legal word that reads back (R62 to R66) -/

theorem legalWordWith_of_format {hasFramer : Bool} {w : Word} {f : Format} (hf : formatOf (opcodeOf w) = some f)
    (hzero : w &&& f.reservedBits = 0) :
    legalWordWith hasFramer w = (hasFramer || decide ((opcodeOf w).toNat < 6)) := by
  rw [legalWordWith, show w.extractLsb' 28 4 = opcodeOf w from rfl, hf]
  simp [hzero]

section Formats

variable (hasFramer : Bool) {op : BitVec 4}

theorem legalWordWith_wordN (hop : formatOf op = some .n) :
    legalWordWith hasFramer (wordN op) = (hasFramer || decide (op.toNat < 6)) := by
  obtain ⟨hopcode, hzero⟩ := wordN_fields op
  rw [legalWordWith_of_format (hopcode.symm ▸ hop) ((reservedN_iff _).mpr hzero), hopcode]

theorem legalWordWith_wordB (imm8 : Byte) (hop : formatOf op = some .b) :
    legalWordWith hasFramer (wordB op imm8) = (hasFramer || decide (op.toNat < 6)) := by
  obtain ⟨hopcode, hzero, -⟩ := wordB_fields op imm8
  rw [legalWordWith_of_format (hopcode.symm ▸ hop) ((reservedB_iff _).mpr hzero), hopcode]

theorem legalWordWith_wordH (imm16 : Half) (hop : formatOf op = some .h) :
    legalWordWith hasFramer (wordH op imm16) = (hasFramer || decide (op.toNat < 6)) := by
  obtain ⟨hopcode, hzero, -⟩ := wordH_fields op imm16
  rw [legalWordWith_of_format (hopcode.symm ▸ hop) ((reservedH_iff _).mpr hzero), hopcode]

end Formats

/-- A command's word is legal exactly on the units that have the command (R66, R68). -/
theorem legalWordWith_encode (hasFramer : Bool) {i : Instr} (hi : ∀ w, i ≠ .illegal w) :
    legalWordWith hasFramer (encode i) = i.wfWith hasFramer := by
  cases i with
  | illegal w => exact absurd rfl (hi w)
  | crcInit | rxStart | rxCheck | valClear | encRead | encWrite1 | encWriteN | decRead =>
    exact legalWordWith_wordN hasFramer rfl
  | crcByte imm8 | rxByte imm8 | setSlave imm8 | decAck imm8 => exact legalWordWith_wordB hasFramer imm8 rfl
  | setAddr imm16 | setArg imm16 | valPush imm16 => exact legalWordWith_wordH hasFramer imm16 rfl

/-- The mnemonic and the operand read from a command's word are its own (R65, R66). -/
theorem commandOf_encode {i : Instr} (hi : ∀ w, i ≠ .illegal w) : commandOf (encode i) = i := by
  cases i with
  | illegal w => exact absurd rfl (hi w)
  | _ => simp [encode, commandOf, wordN_fields, wordB_fields, wordH_fields]

/-- Settles O1: an illegal command is its own word; every other command's word is legal, and reads back. -/
theorem decodeOfEncodeIsTheCommand : Obligations.DecodeOfEncodeIsTheCommand := by
  intro hasFramer i hwf
  by_cases hi : ∃ w, i = .illegal w
  · obtain ⟨w, rfl⟩ := hi
    have hillegal : legalWordWith hasFramer w = false := by simpa [Instr.wfWith] using hwf
    exact decodeWith_of_illegal hillegal
  · have hi := not_exists.mp hi
    rw [decodeWith_eq, legalWordWith_encode hasFramer hi, if_pos hwf, commandOf_encode hi]

/-! ### A legal word is the word of the command it reads as (R67) -/

theorem wordN_opcodeOf {w : Word} (h : w.extractLsb' 0 28 = 0) : wordN (opcodeOf w) = w := by
  rw [wordN, ← h, opcodeOf, BitVec.extractLsb'_append_extractLsb'_eq_extractLsb' (by rfl), BitVec.extractLsb'_eq_self]

theorem wordB_opcodeOf_imm8Of {w : Word} (h : w.extractLsb' 8 20 = 0) : wordB (opcodeOf w) (imm8Of w) = w := by
  rw [wordB, ← h, opcodeOf, imm8Of, BitVec.extractLsb'_append_extractLsb'_eq_extractLsb' (by rfl),
    BitVec.extractLsb'_append_extractLsb'_eq_extractLsb' (by rfl), BitVec.extractLsb'_eq_self]

theorem wordH_opcodeOf_imm16Of {w : Word} (h : w.extractLsb' 16 12 = 0) : wordH (opcodeOf w) (imm16Of w) = w := by
  rw [wordH, ← h, opcodeOf, imm16Of, BitVec.extractLsb'_append_extractLsb'_eq_extractLsb' (by rfl),
    BitVec.extractLsb'_append_extractLsb'_eq_extractLsb' (by rfl), BitVec.extractLsb'_eq_self]

/-- The word with which a format carries the opcode and the operand of `w`: the encoder's view of what the decoder
read. -/
def Format.rebuild (f : Format) (w : Word) : Word :=
  match f with
  | .n => wordN (opcodeOf w)
  | .b => wordB (opcodeOf w) (imm8Of w)
  | .h => wordH (opcodeOf w) (imm16Of w)

theorem Format.rebuild_of_reservedBits {f : Format} {w : Word} (h : w &&& f.reservedBits = 0) : f.rebuild w = w := by
  cases f with
  | n => exact wordN_opcodeOf ((reservedN_iff w).mp h)
  | b => exact wordB_opcodeOf_imm8Of ((reservedB_iff w).mp h)
  | h => exact wordH_opcodeOf_imm16Of ((reservedH_iff w).mp h)

/-- Where the opcode has a format, the decoder reads a command of the map, and the encoder writes it in that format
(R66). -/
theorem encode_commandOf {w : Word} {f : Format} (hf : formatOf (opcodeOf w) = some f) :
    encode (commandOf w) = f.rebuild w ∧ ∀ v, commandOf w ≠ .illegal v := by
  unfold commandOf Format.rebuild
  generalize opcodeOf w = op at hf ⊢
  obtain ⟨opcode⟩ := op
  fin_cases opcode <;> cases hf <;> exact ⟨rfl, nofun⟩

/-- The words in which none of R68's three cases holds. -/
theorem legalWordWith_iff (hasFramer : Bool) (w : Word) :
    legalWordWith hasFramer w = true ↔ ∃ f, formatOf (opcodeOf w) = some f ∧ w &&& f.reservedBits = 0 ∧
      (hasFramer = true ∨ (opcodeOf w).toNat < 6) := by
  rw [legalWordWith, show w.extractLsb' 28 4 = opcodeOf w from rfl]
  cases formatOf (opcodeOf w) <;> simp

theorem legalWordWith_eq_false_iff (hasFramer : Bool) (w : Word) :
    legalWordWith hasFramer w = false ↔ ∀ f, formatOf (opcodeOf w) = some f → w &&& f.reservedBits = 0 →
      hasFramer = false ∧ 6 ≤ (opcodeOf w).toNat := by
  simp [← Bool.not_eq_true, legalWordWith_iff]

theorem encode_commandOf_of_legal {hasFramer : Bool} {w : Word} (h : legalWordWith hasFramer w = true) :
    encode (commandOf w) = w ∧ ∀ v, commandOf w ≠ .illegal v := by
  obtain ⟨f, hf, hzero, -⟩ := (legalWordWith_iff hasFramer w).mp h
  obtain ⟨hencode, hcommand⟩ := encode_commandOf hf
  exact ⟨hencode.trans (Format.rebuild_of_reservedBits hzero), hcommand⟩

theorem decodeWith_of_legal {hasFramer : Bool} {w : Word} (h : legalWordWith hasFramer w = true) :
    decodeWith hasFramer w = commandOf w := by
  rw [decodeWith_eq, if_pos h]

theorem encode_decodeWith (hasFramer : Bool) (w : Word) : encode (decodeWith hasFramer w) = w := by
  cases h : legalWordWith hasFramer w with
  | false => rw [decodeWith_of_illegal h, encode]
  | true => rw [decodeWith_of_legal h, (encode_commandOf_of_legal h).1]

theorem wfWith_decodeWith (hasFramer : Bool) (w : Word) : (decodeWith hasFramer w).wfWith hasFramer = true := by
  cases h : legalWordWith hasFramer w with
  | false => simp [decodeWith_of_illegal h, Instr.wfWith, h]
  | true =>
    obtain ⟨hencode, hcommand⟩ := encode_commandOf_of_legal h
    rw [decodeWith_of_legal h, ← legalWordWith_encode hasFramer hcommand, hencode, h]

/-- Settles O2: the word comes back from its command, and any other command that gave it would be decoded from it too
(O1). -/
theorem everyWordIsExactlyOneCommandOrIllegal : Obligations.EveryWordIsExactlyOneCommandOrIllegal :=
  fun hasFramer w => ⟨wfWith_decodeWith hasFramer w, encode_decodeWith hasFramer w,
    fun i hwf hword => hword ▸ (decodeOfEncodeIsTheCommand hasFramer i hwf).symm⟩

/-- Settles O4: each word is the encoding of the command the spec names, so decoding it is the round trip (O1). -/
theorem wordsOfTheSpecDecodeAsItSays : Obligations.WordsOfTheSpecDecodeAsItSays :=
  have roundTrip := decodeOfEncodeIsTheCommand
  ⟨roundTrip true .crcInit rfl, roundTrip true (.crcByte 0x01) rfl, roundTrip true .rxCheck rfl,
    roundTrip true (.setAddr 0x05CE) rfl, roundTrip true (.setArg 1000) rfl, roundTrip true .encWriteN rfl,
    roundTrip true (.decAck 0x10) rfl, roundTrip true (.illegal 0) rfl, roundTrip true (.illegal 0x10000001) rfl,
    roundTrip true (.illegal 0x70010000) rfl, roundTrip false (.illegal 0x60000001) rfl⟩

end Sys2Proof
end

section
/-! PROOFS. The opcode map's rows select the legal words (R66 to R69), and what an illegal word does (R68). -/

namespace Sys2Proof

/-- The opcode in a row's match column. -/
def OpcodeRow.opcode (r : OpcodeRow) : BitVec 4 := opcodeOf r.pattern

/-- How a row's columns lie (R62 to R64, R66): match holds the opcode alone, mask covers the opcode and the "must be 0"
bits of its format, and the framer rows are those from 0x6 up. -/
theorem opcodeRow_columns : ∀ r ∈ opcodeRows, ∃ f ∈ formatOf r.opcode, r.pattern = wordN r.opcode ∧
    r.mask = 0xF0000000 ||| f.reservedBits ∧ (r.framer = false ↔ r.opcode.toNat < 6) := by decide

theorem exists_opcodeRow_of_format : ∀ op : BitVec 4, formatOf op ≠ none → ∃ r ∈ opcodeRows, r.opcode = op := by
  decide

theorem opcodeRows_pairwise_opcode : opcodeRows.Pairwise fun r q => r.opcode ≠ q.opcode := by decide

theorem and_opcodeMask (w : Word) : w &&& 0xF0000000 = wordN (opcodeOf w) := by
  apply BitVec.eq_of_getLsbD_eq
  intro k hk
  simp only [wordN, opcodeOf, BitVec.getLsbD_and, BitVec.getLsbD_append, BitVec.getLsbD_extractLsb']
  interval_cases k <;> simp

theorem wordN_and_reservedBits (op : BitVec 4) (f : Format) : wordN op &&& f.reservedBits = 0 := by
  cases f <;> revert op <;> decide

theorem opcodeOf_and_mask (w : Word) (f : Format) : opcodeOf (w &&& (0xF0000000 ||| f.reservedBits)) = opcodeOf w := by
  have hmask : opcodeOf (0xF0000000 ||| f.reservedBits) = BitVec.allOnes 4 := by cases f <;> decide
  rw [opcodeOf] at hmask
  rw [opcodeOf, BitVec.extractLsb'_and, hmask, BitVec.and_allOnes, opcodeOf]

theorem and_mask_eq_wordN_iff (w : Word) (f : Format) (op : BitVec 4) :
    w &&& (0xF0000000 ||| f.reservedBits) = wordN op ↔ opcodeOf w = op ∧ w &&& f.reservedBits = 0 := by
  constructor
  · intro h
    have hopcode : opcodeOf w = op := by rw [← opcodeOf_and_mask w f, h, (wordN_fields op).1]
    refine ⟨hopcode, ?_⟩
    have habsorb : (0xF0000000 ||| f.reservedBits) &&& f.reservedBits = f.reservedBits := by cases f <;> decide
    rw [← habsorb, ← BitVec.and_assoc, h, wordN_and_reservedBits]
  · rintro ⟨rfl, hzero⟩
    rw [BitVec.and_or_distrib_left, hzero, ← and_opcodeMask]
    exact BitVec.or_zero

/-- A row selects the words of its opcode with zero "must be 0" bits. -/
theorem selects_iff {r : OpcodeRow} (hr : r ∈ opcodeRows) (w : Word) :
    r.selects w = true ↔
      opcodeOf w = r.opcode ∧ ∃ f, formatOf (opcodeOf w) = some f ∧ w &&& f.reservedBits = 0 := by
  obtain ⟨f, hf, hpattern, hmask, -⟩ := opcodeRow_columns r hr
  rw [OpcodeRow.selects, beq_iff_eq, hpattern, hmask, and_mask_eq_wordN_iff]
  refine and_congr_right fun hopcode => ?_
  rw [hopcode, hf]
  simp

/-- The legal words are those that a row of the map selects, a row that exists on the unit (R67 to R69). -/
theorem legalWordWith_iff_row (hasFramer : Bool) (w : Word) :
    legalWordWith hasFramer w = true ↔
      ∃ r ∈ opcodeRows, r.selects w = true ∧ (r.framer = true → hasFramer = true) := by
  have exists_iff {r : OpcodeRow} (hr : r ∈ opcodeRows) (hop : opcodeOf w = r.opcode) :
      (r.framer = true → hasFramer = true) ↔ hasFramer = true ∨ (opcodeOf w).toNat < 6 := by
    obtain ⟨-, -, -, -, hframer⟩ := opcodeRow_columns r hr
    rw [hop, ← hframer]
    cases r.framer <;> simp
  rw [legalWordWith_iff]
  constructor
  · rintro ⟨f, hf, hzero, hunit⟩
    obtain ⟨r, hr, hop⟩ := exists_opcodeRow_of_format (opcodeOf w) (by simp [hf])
    exact ⟨r, hr, (selects_iff hr w).mpr ⟨hop.symm, f, hf, hzero⟩, (exists_iff hr hop.symm).mpr hunit⟩
  · rintro ⟨r, hr, hselects, hunit⟩
    obtain ⟨hop, f, hf, hzero⟩ := (selects_iff hr w).mp hselects
    exact ⟨f, hf, hzero, (exists_iff hr hop).mp hunit⟩

/-- The mnemonic depends on the opcode alone (R66). -/
theorem commandOf_mnemonic (w : Word) : (commandOf w).mnemonic = (commandOf (wordN (opcodeOf w))).mnemonic := by
  unfold commandOf
  rw [(wordN_fields (opcodeOf w)).1]
  generalize opcodeOf w = op
  obtain ⟨opcode⟩ := op
  fin_cases opcode <;> simp [Instr.mnemonic]

theorem opcodeRow_mnemonic : ∀ r ∈ opcodeRows, (commandOf (wordN r.opcode)).mnemonic = r.name := by decide

/-- Settles O3: a word that a row of the unit selects is legal and has the row's opcode; a word that none selects is not
legal; and two rows have two opcodes. -/
theorem opcodeMapSelectsTheCommand : Obligations.OpcodeMapSelectsTheCommand := by
  refine fun hasFramer w => ⟨fun r hr hselects hunit => ?selected, fun hnone => ?unselected,
    opcodeRows_pairwise_opcode.imp_of_mem fun {r q} hr hq hne hboth => ?overlap⟩
  case selected =>
    rw [decodeWith_of_legal ((legalWordWith_iff_row hasFramer w).mpr ⟨r, hr, hselects, hunit⟩), commandOf_mnemonic,
      ((selects_iff hr w).mp hselects).1, opcodeRow_mnemonic r hr]
  case unselected =>
    apply decodeWith_of_illegal
    rw [← Bool.not_eq_true, legalWordWith_iff_row]
    rintro ⟨r, hr, hselects, hunit⟩
    obtain ⟨hframer, hwithout⟩ := hnone r hr hselects
    cases hwithout.symm.trans (hunit hframer)
  case overlap =>
    exact hne (((selects_iff hr w).mp hboth.1).1.symm.trans ((selects_iff hq w).mp hboth.2).1)

/-! ### Illegal words (R68) -/

open Sys2Proof.Machine

/-- A word is illegal when its opcode's format has a "must be 0" bit that is 1. -/
theorem legalWordWith_of_reserved {hasFramer : Bool} {w : Word} {f : Format} (hf : formatOf (opcodeOf w) = some f)
    (hone : w &&& f.reservedBits ≠ 0) : legalWordWith hasFramer w = false := by
  refine (legalWordWith_eq_false_iff hasFramer w).mpr fun g hg hzero => ?_
  cases hf.symm.trans hg
  exact absurd hzero hone

theorem legalWordWith_of_opcode_zero {hasFramer : Bool} {w : Word} (h : opcodeOf w = 0x0) :
    legalWordWith hasFramer w = false := by
  refine (legalWordWith_eq_false_iff hasFramer w).mpr fun f hf => ?_
  cases ((formatOf_eq_none _).mpr h).symm.trans hf

theorem legalWordWith_false_of_framer_opcode {w : Word} (h : 6 ≤ (opcodeOf w).toNat) :
    legalWordWith false w = false :=
  (legalWordWith_eq_false_iff false w).mpr fun _ _ _ => ⟨rfl, h⟩

theorem formatOf_n : ∀ op : BitVec 4, op ∈ [0x1#4, 0x3, 0x5, 0xA, 0xB, 0xC, 0xD, 0xE] → formatOf op = some .n := by
  decide

theorem formatOf_b : ∀ op : BitVec 4, op ∈ [0x2#4, 0x4, 0x6, 0xF] → formatOf op = some .b := by decide

theorem formatOf_h : ∀ op : BitVec 4, op ∈ [0x7#4, 0x8, 0x9] → formatOf op = some .h := by decide

theorem exec_illegal (w : Word) (s : State) : exec (.illegal w) s = .next { s with result := 9 } := rfl

theorem issueWith_of_illegal {hasFramer : Bool} {w : Word} (h : legalWordWith hasFramer w = false) (s : State) :
    issueWith hasFramer w s = .next { s with result := 9 } := by
  rw [issueWith, decodeWith_of_illegal h, exec_illegal]

/-- Settles O5: in each of R68's cases the word is not legal. -/
theorem illegalWordWritesOnlyIllegalCommand : Obligations.IllegalWordWritesOnlyIllegalCommand := by
  refine ⟨fun hasFramer w s hcase => issueWith_of_illegal ?_ s, exec_illegal⟩
  obtain hzero | ⟨hop, hone⟩ | ⟨hop, hone⟩ | ⟨hop, hone⟩ | ⟨hframer, rfl⟩ := hcase
  · exact legalWordWith_of_opcode_zero hzero
  · exact legalWordWith_of_reserved (formatOf_n _ hop) (mt (reservedN_iff w).mp hone)
  · exact legalWordWith_of_reserved (formatOf_b _ hop) (mt (reservedB_iff w).mp hone)
  · exact legalWordWith_of_reserved (formatOf_h _ hop) (mt (reservedH_iff w).mp hone)
  · exact legalWordWith_false_of_framer_opcode hframer

end Sys2Proof
end

section
/-! PROOFS. The pseudo-instructions: their expansions (R71), and what REQ.WRITEN sends (R87 to R96). -/

namespace Sys2Proof.Machine

open Sys2Proof.Safety

theorem Pseudo.expand_of_admitted {p : Pseudo} (h : p.admitted = true) : p.expand = some p.expansion := if_pos h

theorem Pseudo.expand_of_not_admitted {p : Pseudo} (h : p.admitted = false) : p.expand = none := by
  simp [Pseudo.expand, h]

theorem Pseudo.expand_eq_ite {p : Pseudo} {refused : Prop} [Decidable refused]
    (h : p.admitted = false ↔ refused) : p.expand = if refused then none else some p.expansion := by
  split_ifs with hrefused
  · exact expand_of_not_admitted (h.mpr hrefused)
  · exact expand_of_admitted (by simpa using mt h.mp hrefused)

theorem Pseudo.admitted_rxFrame (bs : List Byte) :
    (Pseudo.rxFrame bs).admitted = false ↔ bs.length = 0 ∨ 263 < bs.length := by
  rw [Pseudo.admitted, decide_eq_false_iff_not]
  omega

theorem Pseudo.admitted_reqWriteN (slave : Byte) (addr : Half) (values : List Half) :
    (Pseudo.reqWriteN slave addr values).admitted = false ↔ values.length = 0 ∨ 127 < values.length := by
  rw [Pseudo.admitted, decide_eq_false_iff_not]
  omega

/-- Settles O7: RX.FRAME and REQ.WRITEN by the lengths they admit; the other forms are always admitted. -/
theorem pseudoInstructionsExpandExactly : Obligations.PseudoInstructionsExpandExactly :=
  ⟨fun _ => Pseudo.expand_of_admitted rfl, fun _ => Pseudo.expand_of_admitted rfl,
    fun bs => Pseudo.expand_eq_ite (Pseudo.admitted_rxFrame bs),
    fun _ _ _ => Pseudo.expand_of_admitted rfl, fun _ _ _ => Pseudo.expand_of_admitted rfl,
    fun s a vs => Pseudo.expand_eq_ite (Pseudo.admitted_reqWriteN s a vs),
    Pseudo.expand_of_admitted rfl, Pseudo.expand_of_admitted rfl⟩

/-! ### REQ.WRITEN (R71, R96) -/

theorem exec_valPush_of_lt {v : Half} {s : State} (hfits : s.vals.length < 127) :
    exec (.valPush v) s = .next { complete .ok s with vals := s.vals ++ [v] } := if_pos hfits

/-- Values that fit are all pushed, in order (R90). With the state before already recording OK, no values need no case
of their own. -/
theorem runInstrs_map_valPush (vs : List Half) {s : State} (hfits : s.vals.length + vs.length ≤ 127) :
    runInstrs (vs.map .valPush) (complete .ok s) = .next { complete .ok s with vals := s.vals ++ vs } := by
  induction vs generalizing s with
  | nil => simp [runInstrs, complete]
  | cons v vs ih =>
    rw [List.length_cons] at hfits
    rw [List.map_cons, runInstrs_cons_of_next _ (exec_valPush_of_lt (by simp; omega))]
    have hrest := ih (s := { s with vals := s.vals ++ [v] }) (by simp; omega)
    simpa [complete] using hrest

/-- ENC.WRITEN with its operands set and a value to send (R96). -/
theorem exec_encWriteN_of_set {s : State} {S : Byte} {A : Half} (hslave : s.slave = some S) (haddr : s.addr = some A)
    (hvals : s.vals ≠ []) : exec .encWriteN s = .next (encBuild (writeMultipleMessage S A s.vals) s) := by
  have hrequest : writeMultipleRequest s.slave s.addr s.vals = .ok (writeMultipleMessage S A s.vals) := by
    rw [hslave, haddr, writeMultipleRequest, listOperands_some]
    exact if_neg (mt List.eq_nil_of_length_eq_zero hvals)
  rw [exec, execEncWriteN, hrequest, encEnd]

/-- A count field below 256 is a zero byte and the count (R44). -/
theorem fieldBytes_ofNat {n : Nat} (h : n < 256) : fieldBytes (BitVec.ofNat 16 n) = [0x00, BitVec.ofNat 8 n] := by
  have hhi : hiByte (BitVec.ofNat 16 n) = 0x00 := by
    apply BitVec.eq_of_toNat_eq
    rw [hiByte, BitVec.extractLsb'_toNat, BitVec.toNat_ofNat, Nat.shiftRight_eq_div_pow]
    change _ = 0
    omega
  have hlo : loByte (BitVec.ofNat 16 n) = BitVec.ofNat 8 n := by
    apply BitVec.eq_of_toNat_eq
    simp [loByte]
  rw [fieldBytes, hhi, hlo]

theorem writeMultipleMessage_of_length_lt (slave : Byte) (addr : Half) {vals : List Half} (h : vals.length < 256) :
    writeMultipleMessage slave addr vals =
      [slave, 0x10, hiByte addr, loByte addr, 0x00, BitVec.ofNat 8 vals.length, BitVec.ofNat 8 (2 * vals.length)] ++
        vals.flatMap fieldBytes := by
  rw [writeMultipleMessage, requestMessage, fieldBytes_ofNat h]
  rfl

/-- Settles O59: VAL.CLEAR drops the older values, the pushes fit, and ENC.WRITEN finds its operands set. -/
theorem multipleWriteRequestFromAnyState : Obligations.MultipleWriteRequestFromAnyState := by
  intro s S A vs hne hlen
  have hpush := runInstrs_map_valPush vs (s := { s with slave := some S, addr := some A, vals := [] }) (by simpa)
  rw [List.nil_append] at hpush
  calc runInstrs (Pseudo.expansion (.reqWriteN S A vs)) s
      = runInstrs (vs.map .valPush ++ [.encWriteN])
          (complete .ok { s with slave := some S, addr := some A, vals := [] }) := rfl
    _ = .next (encBuild (writeMultipleMessage S A vs)
          (complete .ok { s with slave := some S, addr := some A, vals := vs })) := by
        rw [runInstrs_append_of_next _ _ hpush]
        exact runInstrs_cons_of_next [] (exec_encWriteN_of_set rfl rfl hne)
    _ = _ := by rw [writeMultipleMessage_of_length_lt S A (by omega)]; rfl

end Sys2Proof.Machine
end

section
/-! PROOFS. The CRC function: one step by table and its inverse, and the residue of a frame (R72, R77, R78). -/

namespace Sys2Proof.Machine

/-! ### Several rounds (R72) -/

theorem repeat_crcRound_xor (n : Nat) (c d : Half) :
    Nat.repeat crcRound n (c ^^^ d) = Nat.repeat crcRound n c ^^^ Nat.repeat crcRound n d := by
  induction n with
  | zero => rfl
  | succ n ih => simp only [Nat.repeat, ih, crcRound_xor]

theorem crcRound_of_even {c : Half} (h : c.getLsbD 0 = false) : crcRound c = c >>> 1 := by
  rw [crcRound, h]
  rfl

/-- Rounds that find only zero bits shift the value down and fold nothing in. -/
theorem repeat_crcRound_of_low_zero {n : Nat} {c : Half} (h : ∀ i < n, c.getLsbD i = false) :
    Nat.repeat crcRound n c = c >>> n := by
  induction n with
  | zero => simp [Nat.repeat]
  | succ n ih =>
    rw [Nat.repeat, ih fun i hi => h i (by omega), crcRound_of_even (by simp [h n]), BitVec.shiftRight_add]

/-- The round shows the bit it tested in bit 15, so it can be undone: 0xA001 has that bit set. -/
theorem crcRound_getLsbD_fifteen (c : Half) : (crcRound c).getLsbD 15 = c.getLsbD 0 := by
  unfold crcRound
  cases h : c.getLsbD 0 <;> simp [crcPoly]

theorem crcRound_injective : Function.Injective crcRound := by
  intro c d h
  have hbit : c.getLsbD 0 = d.getLsbD 0 := by rw [← crcRound_getLsbD_fifteen, h, crcRound_getLsbD_fifteen]
  have hshift : c >>> 1 = d >>> 1 := by
    unfold crcRound at h
    rw [hbit] at h
    split at h
    · exact BitVec.xor_left_inj crcPoly |>.mp h
    · exact h
  apply BitVec.eq_of_getLsbD_eq
  rintro (_ | k) -
  · exact hbit
  · simpa [Nat.add_comm] using congrArg (BitVec.getLsbD · k) hshift

theorem repeat_crcRound_injective (n : Nat) : Function.Injective (Nat.repeat crcRound n) := by
  induction n with
  | zero => exact fun _ _ h => h
  | succ n ih => exact crcRound_injective.comp ih

/-! ### One step (R72, R77) -/

/-- A 16-bit value is its high byte, shifted up, and its low byte. -/
theorem highPart_xor_loByte (c : Half) : (c >>> 8 <<< 8) ^^^ (loByte c).setWidth 16 = c := by
  apply BitVec.eq_of_getLsbD_eq
  intro k hk
  simp only [loByte, BitVec.getLsbD_xor, BitVec.getLsbD_shiftLeft, BitVec.getLsbD_ushiftRight,
    BitVec.getLsbD_setWidth, BitVec.getLsbD_extractLsb']
  interval_cases k <;> simp

theorem loByte_xor (c d : Half) : loByte (c ^^^ d) = loByte c ^^^ loByte d := BitVec.extractLsb'_xor

theorem loByte_setWidth (b : Byte) : loByte (b.setWidth 16) = b := by
  apply BitVec.eq_of_getLsbD_eq
  intro k hk
  simp only [loByte, BitVec.getLsbD_extractLsb', BitVec.getLsbD_setWidth]
  interval_cases k <;> simp

theorem shiftRight_eight (c : Half) : c >>> 8 = (hiByte c).setWidth 16 := by
  apply BitVec.eq_of_getLsbD_eq
  intro k hk
  simp only [hiByte, BitVec.getLsbD_ushiftRight, BitVec.getLsbD_setWidth, BitVec.getLsbD_extractLsb']
  interval_cases k <;> simp

theorem setWidth_shiftRight_eight (b : Byte) : b.setWidth 16 >>> 8 = (0 : Half) := by
  apply BitVec.eq_of_getLsbD_eq
  simp

/-- Eight rounds bring the high byte down unchanged: none of its bits is tested. -/
theorem repeat_crcRound_eight_highPart (c : Half) : Nat.repeat crcRound 8 (c >>> 8 <<< 8) = c >>> 8 := by
  rw [repeat_crcRound_of_low_zero fun i hi => by simp [hi]]
  apply BitVec.eq_of_getLsbD_eq
  intro k hk
  simp only [BitVec.getLsbD_shiftLeft, BitVec.getLsbD_ushiftRight]
  interval_cases k <;> simp

/-- The table entry of R77: eight rounds of the byte alone. -/
theorem crc16Step_zero (b : Byte) : crc16Step 0 b = Nat.repeat crcRound 8 (b.setWidth 16) :=
  congrArg (Nat.repeat crcRound 8) BitVec.zero_xor

/-- R77's table form. -/
theorem crc16Step_eq_table (c : Half) (b : Byte) :
    crc16Step c b = (c >>> 8) ^^^ crc16Step 0 (loByte (c ^^^ b.setWidth 16)) := by
  have hhigh : (c ^^^ b.setWidth 16) >>> 8 = c >>> 8 := by
    rw [BitVec.ushiftRight_xor_distrib, setWidth_shiftRight_eight]
    exact BitVec.xor_zero
  calc crc16Step c b
      = Nat.repeat crcRound 8 (((c ^^^ b.setWidth 16) >>> 8 <<< 8) ^^^ (loByte (c ^^^ b.setWidth 16)).setWidth 16) := by
        rw [highPart_xor_loByte, crc16Step]
    _ = (c >>> 8) ^^^ crc16Step 0 (loByte (c ^^^ b.setWidth 16)) := by
        rw [repeat_crcRound_xor, repeat_crcRound_eight_highPart, hhigh, crc16Step_zero]

theorem crc16Step_left_injective (b : Byte) : Function.Injective (crc16Step · b) :=
  fun _ _ h => (BitVec.xor_left_inj _).mp (repeat_crcRound_injective 8 h)

theorem crc16Step_right_injective (c : Half) : Function.Injective (crc16Step c) := by
  intro a b h
  have hwide : a.setWidth 16 = b.setWidth 16 := (BitVec.xor_right_inj _).mp (repeat_crcRound_injective 8 h)
  simpa using congrArg (BitVec.setWidth 8) hwide

/-! ### The fold over a list (R73, R78) -/

theorem crcFold_left_injective (bs : List Byte) : Function.Injective (crcFold · bs) := by
  induction bs with
  | nil => exact fun _ _ h => h
  | cons b bs ih => exact fun _ _ h => crc16Step_left_injective b (ih h)

theorem crc16_append (m n : List Byte) : crc16 (m ++ n) = crcFold (crc16 m) n :=
  crcFold_append crcInitial m n

/-- Folding the low byte of the CRC into it leaves the high byte: T[0] = 0 (R78). -/
theorem crc16Step_loByte (c : Half) : crc16Step c (loByte c) = (hiByte c).setWidth 16 := by
  have hlow : loByte (c ^^^ (loByte c).setWidth 16) = 0 := by
    rw [loByte_xor, loByte_setWidth]
    exact BitVec.xor_self
  rw [crc16Step_eq_table, hlow, shiftRight_eight]
  exact BitVec.xor_zero

theorem crc16Step_setWidth_self (b : Byte) : crc16Step (b.setWidth 16) b = 0 := by
  rw [crc16Step, BitVec.xor_self]
  decide

/-- A CRC's own two bytes, low byte first, bring it to zero (R78). -/
theorem crcFold_crcBytes (c : Half) : crcFold c (crcBytes c) = 0 := by
  rw [crcBytes, crcFold_cons, crcFold_cons, crcFold_nil, crc16Step_loByte, crc16Step_setWidth_self]

/-- No other CRC is brought to zero by them: the fold of two bytes is invertible (R78). -/
theorem crcFold_crcBytes_eq_zero_iff (c d : Half) : crcFold c (crcBytes d) = 0 ↔ c = d := by
  rw [← crcFold_crcBytes d]
  exact (crcFold_left_injective (crcBytes d)).eq_iff

theorem crc16_appendCrc (m : List Byte) : crc16 (appendCrc m) = 0 := by
  rw [appendCrc, crc16_append, crcFold_crcBytes]

/-- Settles O32: the fold of the message, then of its CRC's own bytes. -/
theorem residueOfAFrameIsZero : Obligations.ResidueOfAFrameIsZero := crc16_appendCrc

/-- Settles O31: the rounds are the definition's, the check values are computed, and the table form is R77's. -/
theorem crcStepByTable : Obligations.CrcStepByTable :=
  ⟨crc16Step_eq, by decide +kernel, by decide +kernel, by decide, crc16Step_eq_table⟩

end Sys2Proof.Machine
end

section
/-! PROOFS. Valid frames: as messages with their CRC, by their residue, and with one byte changed (R78, R79, R81). -/

namespace Sys2Proof.Machine

/-! ### A message with its CRC (R73, R74) -/

/-- Settles O27: R73's two equations and R74's. -/
theorem frameEndsWithItsCrcLowByteFirst : Obligations.FrameEndsWithItsCrcLowByteFirst :=
  ⟨crc16_nil, crc16_append_singleton, fun m => ⟨rfl, appendCrc_length m⟩⟩

/-! ### Valid frames (R81) -/

theorem crcBytes_joinBytes (h l : Byte) : crcBytes (joinBytes h l) = [l, h] := by
  rw [crcBytes, (hiByte_loByte_joinBytes h l).1, (hiByte_loByte_joinBytes h l).2]

theorem exists_eq_append_crcBytes {f : List Byte} (hlen : 2 ≤ f.length) : ∃ m d, f = m ++ crcBytes d := by
  obtain ⟨l, h, hlast⟩ := List.length_eq_two.mp (show (f.drop (f.length - 2)).length = 2 by simp; omega)
  refine ⟨f.take (f.length - 2), joinBytes h l, ?_⟩
  rw [crcBytes_joinBytes, ← hlast, List.take_append_drop]

theorem crcValid_two_le {f : List Byte} (h : crcValid f = true) : 2 ≤ f.length := by
  rw [crcValid, Bool.and_eq_true] at h
  exact of_decide_eq_true h.1

/-- The validator compares the trailing field with the CRC of the bytes before it. -/
theorem crcValid_append_crcBytes (m : List Byte) (d : Half) : crcValid (m ++ crcBytes d) = true ↔ crc16 m = d := by
  simp [crcValid, crcBytes, frameByte, joinBytes_hiByte_loByte]

/-- The validator as a comparison of trailing bytes, from either side (R74, R81). -/
theorem crcValid_iff_appendCrc (f : List Byte) : crcValid f = true ↔ ∃ m, f = appendCrc m := by
  constructor
  · intro hvalid
    obtain ⟨m, d, rfl⟩ := exists_eq_append_crcBytes (crcValid_two_le hvalid)
    exact ⟨m, by rw [appendCrc, (crcValid_append_crcBytes m d).mp hvalid]⟩
  · rintro ⟨m, rfl⟩
    exact (crcValid_append_crcBytes m _).mpr rfl

/-- The validator as a test of the residue (R78). -/
theorem crcValid_iff_residue (f : List Byte) : crcValid f = true ↔ 2 ≤ f.length ∧ crc16 f = 0 := by
  have agree (hlen : 2 ≤ f.length) : crcValid f = true ↔ crc16 f = 0 := by
    obtain ⟨m, d, rfl⟩ := exists_eq_append_crcBytes hlen
    rw [crcValid_append_crcBytes, crc16_append, crcFold_crcBytes_eq_zero_iff]
  exact ⟨fun h => ⟨crcValid_two_le h, (agree (crcValid_two_le h)).mp h⟩, fun ⟨hlen, h⟩ => (agree hlen).mpr h⟩

/-- Settles O33: the two readings of the validator. -/
theorem validFrameIffZeroResidue : Obligations.ValidFrameIffZeroResidue :=
  fun f => ⟨crcValid_iff_residue f, crcValid_iff_appendCrc f⟩

/-! ### One byte changed (R79) -/

/-- The CRC of a list tells what byte stands at a place: the step into it and every step after it can be undone. -/
theorem crc16_set_injective {f : List Byte} {k : Nat} (hk : k < f.length) :
    Function.Injective fun b => crc16 (f.set k b) := by
  intro a b h
  simp only [List.set_eq_take_append_cons_drop, hk, if_true, crc16_append] at h
  exact crc16Step_right_injective _ (crcFold_left_injective _ h)

/-- Settles O34: a changed list that is valid too has the same residue, zero, and so the same byte. -/
theorem singleByteErrorIsDetected : Obligations.SingleByteErrorIsDetected := by
  intro f k b hvalid hk hne
  rw [← Bool.not_eq_true]
  intro hchanged
  have hsame : crc16 (f.set k f[k]) = crc16 (f.set k b) := by
    rw [List.set_getElem_self, ((crcValid_iff_residue _).mp hvalid).2, ((crcValid_iff_residue _).mp hchanged).2]
  exact hne (List.getElem?_eq_some_iff.mpr ⟨hk, crc16_set_injective hk hsame⟩)

end Sys2Proof.Machine
end

section
/-! PROOFS. The CRC engine: its two commands, and the CRC of a message by them (R75, R76, R123). -/

namespace Sys2Proof.Machine

open Sys2Proof.Safety

theorem exec_crcInit (s : State) : exec .crcInit s = .next (complete .ok { s with crc := 0xFFFF }) := rfl

theorem exec_crcByte (b : Byte) (s : State) :
    exec (.crcByte b) s = .next (complete .ok { s with crc := crc16Step s.crc b }) := rfl

/-- Settles O28: the command by its meaning, the illegal words of its opcode by R68's case of format N. -/
theorem crcInitStartsAtAllOnes : Obligations.CrcInitStartsAtAllOnes := by
  refine ⟨by decide, exec_crcInit, fun w s hop hone => issueWith_of_illegal ?_ s⟩
  exact legalWordWith_of_reserved (formatOf_n _ (by simp [opcodeOf, hop])) (mt (reservedN_iff w).mp hone)

/-- Settles O29: format B's word, and the command by its meaning. -/
theorem crcByteFoldsIntoTheRunningCrc : Obligations.CrcByteFoldsIntoTheRunningCrc :=
  ⟨fun _ => rfl, exec_crcByte⟩

/-- The bytes of a list fold into the running CRC, in order (R76). With the state before already recording OK, no bytes
need no case of their own. -/
theorem runInstrs_map_crcByte (bs : List Byte) (s : State) :
    runInstrs (bs.map .crcByte) (complete .ok s) = .next (complete .ok { s with crc := crcFold s.crc bs }) := by
  induction bs generalizing s with
  | nil => rfl
  | cons b bs ih =>
    rw [List.map_cons, runInstrs_cons_of_next _ (exec_crcByte b _)]
    exact ih { s with crc := crc16Step s.crc b }

/-- CRC.INIT and the bytes of a message, from any state (R75, R76). -/
theorem runInstrs_crcInit_map_crcByte (m : List Byte) (s : State) :
    runInstrs (.crcInit :: m.map .crcByte) s = .next (complete .ok { s with crc := crc16 m }) := by
  rw [runInstrs_cons_of_next _ (exec_crcInit s), runInstrs_map_crcByte]
  rfl

/-- Without a CRC.INIT the bytes go on from the running CRC; one of them at least records OK (R76, R123). -/
theorem runInstrs_map_crcByte_of_ne_nil {n : List Byte} (hne : n ≠ []) (s : State) :
    runInstrs (n.map .crcByte) s = .next (complete .ok { s with crc := crcFold s.crc n }) := by
  obtain ⟨b, bs, rfl⟩ := List.exists_cons_of_ne_nil hne
  rw [List.map_cons, runInstrs_cons_of_next _ (exec_crcByte b s), runInstrs_map_crcByte]
  rfl

/-- Settles O30: a message after CRC.INIT, the residue of a frame, and bytes that go on from a message's CRC. -/
theorem crcEngineComputesTheCrcOfAMessage : Obligations.CrcEngineComputesTheCrcOfAMessage := by
  refine ⟨runInstrs_crcInit_map_crcByte, fun m s => ?frame, fun m n s hcrc hne => ?goesOn⟩
  case frame =>
    rw [runInstrs_crcInit_map_crcByte, crc16_appendCrc]
    rfl
  case goesOn =>
    rw [runInstrs_map_crcByte_of_ne_nil hne, hcrc, ← crc16_append]
    rfl

end Sys2Proof.Machine
end

section
/-! PROOFS. The frame validator's commands: what RX.START, RX.BYTE and RX.CHECK do, one equation per case (R83 to R85). -/

namespace Sys2Proof.Machine

/-! ### RX.START (R83) -/

theorem exec_rxStart (s : State) :
    exec .rxStart s = .next { checkEnd .ok false s with rx := [], rxOvf := false } := rfl

/-- Settles O35: format N's word, and the command by its meaning. -/
theorem rxStartEmptiesTheBuffer : Obligations.RxStartEmptiesTheBuffer := ⟨by decide, exec_rxStart⟩

/-! ### RX.BYTE (R84) -/

section RxByte

variable {s : State} (b : Byte)

theorem exec_rxByte_of_lt (hfits : s.rx.length < 263) :
    exec (.rxByte b) s = .next { complete .ok s with rx := s.rx ++ [b] } := if_pos hfits

theorem exec_rxByte_of_full (hfull : 263 ≤ s.rx.length) :
    exec (.rxByte b) s = .next { complete .overflow s with rxOvf := true } := if_neg (Nat.not_lt.mpr hfull)

end RxByte

/-- A full buffer admits no byte, so RX.START alone changes it. -/
theorem CommandEffect.keeps_full_rx {i : Instr} {s t : State} (h : CommandEffect s i t) (hfull : 263 ≤ s.rx.length)
    (hstart : i ≠ .rxStart) : t.rx = s.rx := by
  cases h with
  | rxStart => exact absurd rfl hstart
  | rxByteFits _ hfits => omega
  | _ => rfl

/-- Settles O36: the two ends of RX.BYTE, and the frames of the overflow bit and of a full buffer. -/
theorem rxByteAppendsOrOverflows : Obligations.RxByteAppendsOrOverflows :=
  ⟨fun _ => rfl, fun b _ => exec_rxByte_of_lt b, fun b _ => exec_rxByte_of_full b,
    fun _ _ _ hovf hfull hstart h =>
      ⟨(effect_of_exec h).keeps_overflow hovf hstart, (effect_of_exec h).keeps_full_rx hfull.ge hstart⟩⟩

/-! ### RX.CHECK (R85) -/

theorem exec_rxCheck (s : State) :
    exec .rxCheck s = .next (checkEnd (rxVerdict s.rxOvf s.rx).1 (rxVerdict s.rxOvf s.rx).2 s) := rfl

theorem exec_rxCheck_of_verdict {s : State} {e : ResultCode} {k : Bool} (h : rxVerdict s.rxOvf s.rx = (e, k)) :
    exec .rxCheck s = .next (checkEnd e k s) := by
  rw [exec_rxCheck, h]

/-- Settles O38: the same checks in the same order, each with its end written out. -/
theorem rxCheckOutcome : Obligations.RxCheckOutcome := by
  refine ⟨by decide, fun s => ?_⟩
  rw [exec_rxCheck, rxVerdict]
  split_ifs <;> rfl

section Verdict

variable {rxOvf : Bool} {rx : List Byte}

theorem rxVerdict_of_short (hovf : rxOvf = false) (hlen : rx.length < 4) :
    rxVerdict rxOvf rx = (.shortFrame, false) := by
  simp [rxVerdict, hovf, hlen]

theorem rxVerdict_of_valid (hovf : rxOvf = false) (hlen : 4 ≤ rx.length) (hvalid : crcValid rx = true) :
    rxVerdict rxOvf rx = (.ok, true) := by
  simp [rxVerdict, hovf, Nat.not_lt.mpr hlen, hvalid]

theorem rxVerdict_of_invalid (hovf : rxOvf = false) (hlen : 4 ≤ rx.length) (hinvalid : crcValid rx = false) :
    rxVerdict rxOvf rx = (.crcMismatch, false) := by
  simp [rxVerdict, hovf, Nat.not_lt.mpr hlen, hinvalid]

/-- RX.CHECK answers OK exactly on a valid frame of at least four bytes, with no overflow. -/
theorem rxVerdict_ok_iff : (rxVerdict rxOvf rx).1 = .ok ↔ rxOvf = false ∧ 4 ≤ rx.length ∧ crcValid rx = true := by
  rw [← rxVerdict_crcOk]
  obtain ⟨hverdict, -⟩ | ⟨e, hne, hverdict⟩ := rxVerdict_cases rxOvf rx
  · simp [hverdict]
  · simp [hverdict, hne]

end Verdict

/-- Settles O39: the length is checked before the CRC, and a byte changed in a valid frame leaves its length and breaks
its CRC. -/
theorem rxCheckRejectsShortAndCorruptedFrames : Obligations.RxCheckRejectsShortAndCorruptedFrames := by
  refine ⟨by decide +kernel, fun s hovf hrx => ?short, fun s t k b h hok hk hne => ?corrupted⟩
  case short =>
    have hlen : s.rx.length < 4 := by rcases hrx with h | h <;> simp [h]
    exact exec_rxCheck_of_verdict (rxVerdict_of_short hovf hlen)
  case corrupted =>
    cases h
    obtain ⟨hovf, hlen, hvalid⟩ := rxVerdict_ok_iff.mp ((ResultCode.code_eq_zero_iff _).mp hok)
    have hchanged : crcValid (s.rx.set k b) = false := singleByteErrorIsDetected s.rx k b hvalid hk hne
    exact exec_rxCheck_of_verdict (s := { s with rx := s.rx.set k b })
      (rxVerdict_of_invalid hovf (by simpa using hlen) hchanged)

end Sys2Proof.Machine
end

section
/-! PROOFS. The overflow bit stands only over a full buffer: at reset, and after every step (R23, R84). -/

namespace Sys2Proof.Safety

open Sys2Proof.Machine

/-- The receive buffer is within its capacity, and full while the overflow bit is set (R37, R84). -/
structure OverflowOnlyWhenFull (s : State) : Prop where
  rx_fits : s.rx.length ≤ 263
  rx_full : s.rxOvf = true → s.rx.length = 263

/-- An empty buffer with the bit clear, as RX.START and reset leave it. -/
theorem OverflowOnlyWhenFull.of_empty {s : State} (hrx : s.rx = []) (hovf : s.rxOvf = false) :
    OverflowOnlyWhenFull s := ⟨by simp [hrx], by simp [hovf]⟩

section Keeps

variable {s : State} (hs : OverflowOnlyWhenFull s)
include hs

/-- The invariant reads two fields alone. -/
theorem OverflowOnlyWhenFull.of_same_rx {t : State} (h : t.rxOvf = s.rxOvf ∧ t.rx = s.rx) :
    OverflowOnlyWhenFull t := ⟨h.2 ▸ hs.rx_fits, fun hovf => h.2 ▸ hs.rx_full (h.1 ▸ hovf)⟩

/-- RX.BYTE sets the bit only over a full buffer, and appends only where the bit is clear (R84). -/
theorem OverflowOnlyWhenFull.of_effect {i : Instr} {t : State} (h : CommandEffect s i t) : OverflowOnlyWhenFull t := by
  cases h with
  | rxStart => exact .of_empty rfl rfl
  | rxByteFits b hfits => exact ⟨by simpa using hfits, fun hovf => absurd (hs.rx_full hovf) hfits.ne⟩
  | rxByteFull b hfull => exact ⟨hs.rx_fits, fun _ => hs.rx_fits.antisymm hfull⟩
  | _ => exact hs.of_same_rx ⟨rfl, rfl⟩

theorem OverflowOnlyWhenFull.of_perform {a : HostAction} {t : State} (h : perform a s = .next t) :
    OverflowOnlyWhenFull t := by
  cases a with
  | command w => exact hs.of_effect (effect_of_exec h)
  | read a => cases h; exact hs.of_same_rx ⟨rfl, rfl⟩
  | reset => cases h; exact .of_empty rfl rfl

theorem OverflowOnlyWhenFull.of_step {t : State} (h : step s = .next t) : OverflowOnlyWhenFull t := by
  cases hpending : s.pending with
  | nil =>
    cases (step_of_pending_nil hpending).symm.trans h
    exact hs
  | cons a rest =>
    rw [step_of_pending_cons hpending] at h
    exact (hs.of_same_rx (t := { s with pending := rest }) ⟨rfl, rfl⟩).of_perform h

end Keeps

/-- Settles O18: reset clears the bit, and a step keeps the invariant. -/
theorem overflowBitMeansFullBuffer : Obligations.OverflowBitMeansFullBuffer := by
  refine ⟨nofun, fun s t hfits hfull h => ?_⟩
  obtain ⟨hfits', hfull'⟩ := OverflowOnlyWhenFull.of_step ⟨hfits, hfull⟩ h
  exact ⟨hfits', hfull'⟩

end Sys2Proof.Safety
end

section
/-! PROOFS. A whole frame delivered to the validator, from any state (R83 to R86). -/

namespace Sys2Proof.Machine

open Sys2Proof.Safety

/-- The unit after RX.START and the bytes `m`: the first 263 stand in the buffer, and the last one tells whether all
fitted. `runInstrs_rxStart_map_rxByte` ties it to the model. -/
def delivered (m : List Byte) (s : State) : State :=
  { s with
    rx := m.take 263
    rxOvf := decide (263 < m.length)
    crcOk := false
    result := if 263 < m.length then 7 else 0 }

/-- One byte more fits, or is dropped with the overflow bit set (R84). -/
theorem exec_rxByte_delivered (m : List Byte) (b : Byte) (s : State) :
    exec (.rxByte b) (delivered m s) = .next (delivered (m ++ [b]) s) := by
  by_cases hfits : m.length < 263
  · have htake : m.take 263 = m := List.take_of_length_le hfits.le
    have htake' : (m ++ [b]).take 263 = m ++ [b] := List.take_of_length_le (by simpa using hfits)
    have hlen : ¬ 263 < m.length + 1 := by omega
    rw [exec_rxByte_of_lt b (by simpa [delivered] using hfits)]
    simp [delivered, complete, ResultCode.code, htake, htake', hlen, hfits.le]
  · have htake : (m ++ [b]).take 263 = m.take 263 := List.take_append_of_le_length (by omega)
    have hlen : 263 < m.length + 1 := by omega
    rw [exec_rxByte_of_full b (by simpa [delivered] using hfits)]
    simp [delivered, complete, ResultCode.code, htake, hlen]

theorem runInstrs_map_rxByte_delivered (m n : List Byte) (s : State) :
    runInstrs (n.map .rxByte) (delivered m s) = .next (delivered (m ++ n) s) := by
  induction n generalizing m with
  | nil => rw [List.append_nil]; rfl
  | cons b n ih =>
    rw [List.map_cons, runInstrs_cons_of_next _ (exec_rxByte_delivered m b s), ih, List.append_assoc]
    rfl

theorem runInstrs_rxStart_map_rxByte (m : List Byte) (s : State) :
    runInstrs (.rxStart :: m.map .rxByte) s = .next (delivered m s) :=
  runInstrs_map_rxByte_delivered [] m s

/-- Settles O37: RX.START leaves the state that no bytes were delivered to, and each RX.BYTE adds one. -/
theorem deliveredFrameStandsInTheBuffer : Obligations.DeliveredFrameStandsInTheBuffer := runInstrs_rxStart_map_rxByte

/-- Bytes that fit all stand in the buffer, and the overflow bit is clear. -/
theorem delivered_of_length_le {m : List Byte} (hlen : m.length ≤ 263) (s : State) :
    delivered m s = { s with rx := m, rxOvf := false, crcOk := false, result := 0 } := by
  simp [delivered, List.take_of_length_le hlen, Nat.not_lt.mpr hlen]

/-- A frame that fits, delivered and then followed by the command `i` (R83, R84). -/
theorem runInstrs_deliver_then {f : List Byte} (hlen : f.length ≤ 263) (i : Instr) (s : State) :
    runInstrs (.rxStart :: (f.map .rxByte ++ [i])) s =
      runInstrs [i] { s with rx := f, rxOvf := false, crcOk := false, result := 0 } := by
  have hdelivered := runInstrs_rxStart_map_rxByte f s
  rw [delivered_of_length_le hlen] at hdelivered
  exact runInstrs_append_of_next _ [i] hdelivered

/-- Settles O40: the frame has 4 to 263 bytes, and its last two are the CRC of the others. -/
theorem framedMessagePassesTheValidator : Obligations.FramedMessagePassesTheValidator := by
  intro m s hmin hmax
  have hvalid : crcValid (appendCrc m) = true := (crcValid_iff_appendCrc _).mpr ⟨m, rfl⟩
  have hverdict := rxVerdict_of_valid rfl (by simpa using hmin) hvalid
  rw [runInstrs_deliver_then (by simpa using hmax), runInstrs_cons_of_next [] (exec_rxCheck _), hverdict]
  rfl

end Sys2Proof.Machine
end

section
/-! PROOFS. The framer's operand commands: the SET commands, VAL.PUSH and VAL.CLEAR (R87 to R91). -/

namespace Sys2Proof.Machine

open Sys2Proof.Safety

/-! ### VAL.PUSH and VAL.CLEAR (R90, R91) -/

theorem exec_valPush_of_full (v : Half) {s : State} (hfull : 127 ≤ s.vals.length) :
    exec (.valPush v) s = .next (complete .overflow s) := if_neg (Nat.not_lt.mpr hfull)

theorem exec_valClear (s : State) : exec .valClear s = .next { complete .ok s with vals := [] } := rfl

/-- Settles O43: the two ends of VAL.PUSH, and VAL.CLEAR by its meaning. -/
theorem valPushAndClear : Obligations.ValPushAndClear :=
  ⟨fun _ => rfl, by decide, fun s => ⟨fun _ => exec_valPush_of_lt, fun v => exec_valPush_of_full v, exec_valClear s⟩⟩

/-! ### Pushes in sequence (R90, R121) -/

/-- The unit after the values `vs` were pushed: the first 127 of the old and the pushed ones stand in the list, and the
result tells whether all fitted. `runInstrs_map_valPush_pushed` ties it to the model. -/
def pushed (vs : List Half) (s : State) : State :=
  { s with
    vals := (s.vals ++ vs).take 127
    result := if 127 < s.vals.length + vs.length then 7 else 0 }

/-- No values pushed onto a list within its capacity: only the result code may differ. -/
theorem pushed_nil {s : State} (hfits : s.vals.length ≤ 127) : pushed [] s = { s with result := 0 } := by
  simp [pushed, List.take_of_length_le hfits, Nat.not_lt.mpr hfits]

/-- One value more fits, or is dropped with Overflow (R90). -/
theorem exec_valPush_pushed (vs : List Half) (v : Half) (s : State) :
    exec (.valPush v) (pushed vs s) = .next (pushed (vs ++ [v]) s) := by
  by_cases hfits : s.vals.length + vs.length < 127
  · have htake : (s.vals ++ vs).take 127 = s.vals ++ vs := List.take_of_length_le (by simp; omega)
    have htake' : (s.vals ++ (vs ++ [v])).take 127 = s.vals ++ (vs ++ [v]) := List.take_of_length_le (by simp; omega)
    have hlen : ¬ 127 < s.vals.length + (vs.length + 1) := by omega
    rw [exec_valPush_of_lt (by simpa [pushed] using hfits)]
    simp [pushed, complete, ResultCode.code, htake, htake', hlen]
  · have htake : (s.vals ++ (vs ++ [v])).take 127 = (s.vals ++ vs).take 127 := by
      rw [← List.append_assoc, List.take_append_of_le_length (by simp; omega)]
    have hlen : 127 < s.vals.length + (vs.length + 1) := by omega
    rw [exec_valPush_of_full v (by simpa [pushed] using hfits)]
    simp [pushed, complete, ResultCode.code, htake, hlen]

theorem runInstrs_map_valPush_pushed (vs ws : List Half) (s : State) :
    runInstrs (ws.map .valPush) (pushed vs s) = .next (pushed (vs ++ ws) s) := by
  induction ws generalizing vs with
  | nil => rw [List.append_nil]; rfl
  | cons w ws ih =>
    rw [List.map_cons, runInstrs_cons_of_next _ (exec_valPush_pushed vs w s), ih, List.append_assoc]
    rfl

/-- A command that runs first overwrites the old result code unread (R21). -/
theorem runInstrs_cons_with_result (i : Instr) (is : List Instr) (s : State) (r : BitVec 4) :
    runInstrs (i :: is) { s with result := r } = runInstrs (i :: is) s := by
  rw [runInstrs, runInstrs, exec_with_result]

/-- Settles O44: the old state is that after no pushes, but for its result code, which the first push overwrites; each
push then adds one value. -/
theorem pushedValuesKeepPushOrder : Obligations.PushedValuesKeepPushOrder := by
  rintro (_ | ⟨v, vs⟩) s hne hfits
  case nil => exact absurd rfl hne
  case cons =>
    calc runInstrs ((v :: vs).map .valPush) s
        = runInstrs ((v :: vs).map .valPush) (pushed [] s) := by
          rw [pushed_nil hfits, List.map_cons, runInstrs_cons_with_result _ _ s 0]
      _ = .next (pushed (v :: vs) s) := runInstrs_map_valPush_pushed [] (v :: vs) s

/-! ### The SET commands (R87, R88, R89) -/

theorem exec_setSlave (v : Byte) (s : State) :
    exec (.setSlave v) s = .next { complete .ok s with slave := some v } := rfl

theorem exec_setAddr (v : Half) (s : State) : exec (.setAddr v) s = .next { complete .ok s with addr := some v } := rfl

theorem exec_setArg (v : Half) (s : State) : exec (.setArg v) s = .next { complete .ok s with arg := some v } := rfl

/-- STATUS bits 8, 9 and 10 say which operands are set, on this hardware (R20). -/
theorem status_operand_bits (s : State) :
    (status s).getLsbD 8 = s.slave.isSome ∧ (status s).getLsbD 9 = s.addr.isSome ∧
      (status s).getLsbD 10 = s.arg.isSome := by
  obtain ⟨-, -, hbit⟩ := statusIsAssembledFromItsFields
  exact ⟨hbit true s 8, hbit true s 9, hbit true s 10⟩

/-- Settles O42: each command by its meaning, its STATUS bit by R20 and the value read by the map of R41. -/
theorem setCommandsLoadTheOperands : Obligations.SetCommandsLoadTheOperands := by
  refine ⟨fun _ => rfl, fun _ => rfl, fun _ => rfl, fun v s => ?slave, fun v s => ?addr, fun v s => ?arg⟩
  case slave =>
    obtain ⟨hbit, -, -⟩ := status_operand_bits { s with slave := some v, result := 0 }
    exact ⟨exec_setSlave v s, hbit, rfl⟩
  case addr =>
    obtain ⟨-, hbit, -⟩ := status_operand_bits { s with addr := some v, result := 0 }
    exact ⟨exec_setAddr v s, hbit, rfl⟩
  case arg =>
    obtain ⟨-, -, hbit⟩ := status_operand_bits { s with arg := some v, result := 0 }
    exact ⟨exec_setArg v s, hbit, rfl⟩

end Sys2Proof.Machine
end

section
/-! PROOFS. The request encoder: the requests it builds, how long they are, and their way back through the validator
(R94 to R98). -/

namespace Sys2Proof.Machine

open Sys2Proof.Safety

/-! ### The requests, by their operands (R94, R95, R96) -/

section Requests

variable {slave : Option Byte} {addr arg : Option Half}

theorem readRequest_of_unset (rangeOk : Half → Half → Bool) (h : slave = none ∨ addr = none ∨ arg = none) :
    readRequest rangeOk slave addr arg = .error .operandUnset := by
  rw [readRequest, (requestOperands_eq_none slave addr arg).mpr h]

theorem writeRequest_of_unset (h : slave = none ∨ addr = none ∨ arg = none) :
    writeRequest slave addr arg = .error .operandUnset := by
  rw [writeRequest, (requestOperands_eq_none slave addr arg).mpr h]

theorem writeMultipleRequest_of_unset (vals : List Half) (h : slave = none ∨ addr = none) :
    writeMultipleRequest slave addr vals = .error .operandUnset := by
  rw [writeMultipleRequest, (listOperands_eq_none slave addr).mpr h]

/-- With the operands set, count 0 and a range that is not accepted end alike (R94). -/
theorem readRequest_of_set (rangeOk : Half → Half → Bool) (S : Byte) (A n : Half) :
    readRequest rangeOk (some S) (some A) (some n) =
      if n ≠ 0 ∧ rangeOk A n = true then .ok (requestMessage S 0x03 A n) else .error .invalidRange := by
  cases hr : rangeOk A n with
  | false => simp [readRequest, hr]
  | true => by_cases hn : n = 0 <;> simp [readRequest, hr, hn]

/-! ### The length of a request that is built (R97) -/

variable {m : List Byte}

theorem readRequest_ok_length {rangeOk : Half → Half → Bool} (h : readRequest rangeOk slave addr arg = .ok m) :
    m.length = 6 := by
  obtain ⟨e, -, herr⟩ | ⟨S, A, n, -, -, -, -, -, hok⟩ := readRequest_cases rangeOk slave addr arg
  · cases herr.symm.trans h
  · cases hok.symm.trans h
    exact requestMessage_length S 0x03 A n

theorem writeRequest_ok_length (h : writeRequest slave addr arg = .ok m) : m.length = 6 := by
  obtain herr | ⟨S, A, v, -, -, -, hok⟩ := writeRequest_cases slave addr arg
  · cases herr.symm.trans h
  · cases hok.symm.trans h
    exact requestMessage_length S 0x06 A v

theorem writeMultipleRequest_ok_length {vals : List Half} (h : writeMultipleRequest slave addr vals = .ok m) :
    m.length = 7 + 2 * vals.length := by
  obtain ⟨e, -, herr⟩ | ⟨S, A, -, -, -, hok⟩ := writeMultipleRequest_cases slave addr vals
  · cases herr.symm.trans h
  · cases hok.symm.trans h
    exact writeMultipleMessage_length S A vals

end Requests

/-! ### ENC.READ (R94) -/

theorem exec_encRead (s : State) : exec .encRead s = .next (encReadWith Config.rangeOk s) := rfl

theorem encReadWith_of_unset (rangeOk : Half → Half → Bool) {s : State}
    (h : s.slave = none ∨ s.addr = none ∨ s.arg = none) : encReadWith rangeOk s = encFail .operandUnset s := by
  rw [encReadWith, readRequest_of_unset rangeOk h, encEnd]

theorem encReadWith_of_set (rangeOk : Half → Half → Bool) {s : State} {S : Byte} {A n : Half}
    (hslave : s.slave = some S) (haddr : s.addr = some A) (harg : s.arg = some n) :
    encReadWith rangeOk s =
      if n ≠ 0 ∧ rangeOk A n = true then encBuild (requestMessage S 0x03 A n) s else encFail .invalidRange s := by
  rw [encReadWith, hslave, haddr, harg, readRequest_of_set]
  split_ifs <;> rfl

/-- Settles O45: the two ends of ENC.READ; the hardware's own `RANGE_OK` is one of those it is stated for. -/
theorem encReadBuildsTheReadRequest : Obligations.EncReadBuildsTheReadRequest := by
  refine ⟨by decide, fun s h => ?unset, fun rangeOk s S A n hslave haddr harg => ?anyRange,
    fun s S A n hslave haddr harg => ?ownRange⟩
  case unset =>
    rw [exec_encRead, encReadWith_of_unset Config.rangeOk h]
    rfl
  case anyRange => exact encReadWith_of_set rangeOk hslave haddr harg
  case ownRange =>
    rw [exec_encRead, encReadWith_of_set Config.rangeOk hslave haddr harg]
    by_cases hn : n = 0
    · rw [if_neg fun h => h.1 hn, if_pos hn]
      rfl
    · rw [if_neg hn, if_congr (and_iff_right hn) rfl rfl]
      rfl

/-! ### ENC.WRITE1 (R95) -/

theorem exec_encWrite1 (s : State) : exec .encWrite1 s = .next (encEnd (writeRequest s.slave s.addr s.arg) s) := rfl

theorem exec_encWrite1_of_set {s : State} {S : Byte} {A v : Half} (hslave : s.slave = some S) (haddr : s.addr = some A)
    (harg : s.arg = some v) : exec .encWrite1 s = .next (encBuild (requestMessage S 0x06 A v) s) := by
  rw [exec_encWrite1, hslave, haddr, harg, writeRequest, requestOperands_some, encEnd]

/-- Settles O46: an unset operand, or the request. -/
theorem encWrite1BuildsTheWriteRequest : Obligations.EncWrite1BuildsTheWriteRequest := by
  refine ⟨by decide, fun s h => ?unset, fun s S A v hslave haddr harg => exec_encWrite1_of_set hslave haddr harg⟩
  case unset =>
    rw [exec_encWrite1, writeRequest_of_unset h]
    rfl

/-! ### ENC.WRITEN (R96) -/

theorem exec_encWriteN (s : State) :
    exec .encWriteN s = .next (encEnd (writeMultipleRequest s.slave s.addr s.vals) s) := rfl

theorem exec_encWriteN_of_empty {s : State} {S : Byte} {A : Half} (hslave : s.slave = some S) (haddr : s.addr = some A)
    (hvals : s.vals = []) : exec .encWriteN s = .next (encFail .invalidRange s) := by
  have hrequest : writeMultipleRequest s.slave s.addr s.vals = .error .invalidRange := by rw [hslave, haddr, hvals]; rfl
  rw [exec_encWriteN, hrequest, encEnd]

/-- Settles O47: an unset operand, an empty list, or the request, whose count and byte count fit one byte each. -/
theorem encWriteNBuildsTheMultipleWriteRequest : Obligations.EncWriteNBuildsTheMultipleWriteRequest := by
  refine ⟨by decide, fun s h => ?unset, fun s S A hslave haddr hvals => exec_encWriteN_of_empty hslave haddr hvals,
    fun s S A hslave haddr hvals hlen => ?set⟩
  case unset =>
    rw [exec_encWriteN, writeMultipleRequest_of_unset s.vals h]
    rfl
  case set =>
    refine ⟨BitVec.ofNat 8 s.vals.length, BitVec.ofNat 8 (2 * s.vals.length),
      Nat.mod_eq_of_lt (by omega), Nat.mod_eq_of_lt (by omega), ?_⟩
    rw [exec_encWriteN_of_set hslave haddr hvals, writeMultipleMessage_of_length_lt S A (by omega)]
    rfl

/-! ### Built frames, whatever encoder built them (R97, R98) -/

/-- An encoder that leaves a frame has built it, from the message of its request. -/
theorem encEnd_of_txValid {request : Except ResultCode (List Byte)} {s : State} {n : Nat}
    (hlen : ∀ m, request = .ok m → m.length = n) (h : (encEnd request s).txValid = true) :
    ∃ m, encEnd request s = encBuild m s ∧ m.length = n := by
  obtain ⟨e, -, hfail⟩ | ⟨m, hok, hbuild⟩ := encEnd_cases request s
  · rw [hfail, encFail_txValid] at h
    cases h
  · exact ⟨m, hbuild, hlen m hok⟩

/-- A frame that stands after an encoder is its message with the CRC, six bytes long or, for ENC.WRITEN, `7 + 2n`. -/
theorem exec_encoder_of_txValid {i : Instr} {s t : State} (henc : isEncoder i = true) (h : exec i s = .next t)
    (hvalid : t.txValid = true) :
    ∃ m, t = encBuild m s ∧ m.length = if i = .encWriteN then 7 + 2 * s.vals.length else 6 := by
  cases i with
  | encRead => cases h; exact encEnd_of_txValid (fun _ => readRequest_ok_length) hvalid
  | encWrite1 => cases h; exact encEnd_of_txValid (fun _ => writeRequest_ok_length) hvalid
  | encWriteN => cases h; exact encEnd_of_txValid (fun _ => writeMultipleRequest_ok_length) hvalid
  | _ => cases henc

/-- Settles O49: the message and two bytes of CRC; 7 + 2 * 127 + 2 = 263. -/
theorem longestBuiltFrameIs263Bytes : Obligations.LongestBuiltFrameIs263Bytes := by
  refine ⟨fun i s t henc hfits h hvalid => ?atMost, fun s S A hslave haddr hlen => ?reached⟩
  case atMost =>
    obtain ⟨m, rfl, hlen⟩ := exec_encoder_of_txValid henc h hvalid
    rw [encBuild_tx, appendCrc_length, hlen]
    split_ifs <;> omega
  case reached =>
    have hvals : s.vals ≠ [] := List.ne_nil_of_length_pos (by omega)
    refine ⟨_, exec_encWriteN_of_set hslave haddr hvals, rfl, ?_⟩
    rw [encBuild_tx, appendCrc_length, writeMultipleMessage_length, hlen]

/-- Settles O50: a built frame is a message of 6 to 261 bytes with its CRC, and such a frame passes the validator. -/
theorem builtFramesPassTheValidator : Obligations.BuiltFramesPassTheValidator := by
  intro i s t henc hfits h hok
  have hvalid : t.txValid = true := ((effect_of_exec h).txValid_of_encoder henc).1.mpr hok
  obtain ⟨m, rfl, hlen⟩ := exec_encoder_of_txValid henc h hvalid
  have hbounds : 2 ≤ m.length ∧ m.length ≤ 261 := by
    rw [hlen]
    split_ifs <;> omega
  exact framedMessagePassesTheValidator m (encBuild m s) hbounds.1 hbounds.2

end Sys2Proof.Machine
end

section
/-! PROOFS. The response decoder: the outcomes of DEC.READ and DEC.ACK, check by check (R99, R100). -/

namespace Sys2Proof.Machine

/-! ### The commands by their verdicts -/

theorem exec_decRead (s : State) : exec .decRead s = .next (decReadEnd (readVerdict s.slave s.rxOvf s.rx) s) := rfl

theorem exec_decRead_of_verdict {s : State} {verdict : Except (ResultCode × Bool) (List Half)}
    (h : readVerdict s.slave s.rxOvf s.rx = verdict) : exec .decRead s = .next (decReadEnd verdict s) := by
  rw [exec_decRead, h]

theorem exec_decAck (f : Byte) (s : State) :
    exec (.decAck f) s =
      .next (checkEnd (ackVerdict f s.slave s.rxOvf s.rx).1 (ackVerdict f s.slave s.rxOvf s.rx).2 s) := rfl

theorem exec_decAck_of_verdict {f : Byte} {s : State} {e : ResultCode} {k : Bool}
    (h : ackVerdict f s.slave s.rxOvf s.rx = (e, k)) : exec (.decAck f) s = .next (checkEnd e k s) := by
  rw [exec_decAck, h]

/-! ### The bytes of a frame that the checks read -/

theorem frameByte_eq_getD (f : List Byte) (i : Nat) : frameByte f i = f.getD i 0 := rfl

theorem getElem?_eq_some_iff_frameByte {f : List Byte} {k : Nat} (hk : k < f.length) (b : Byte) :
    f[k]? = some b ↔ frameByte f k = b := by
  rw [frameByte, List.getD_eq_getElem?_getD, List.getElem?_eq_getElem hk, Option.getD_some, Option.some_inj]

/-- Word `i` of a payload is joined from its bytes `2i` and `2i + 1`; an odd last byte belongs to no word (R44). -/
theorem unpackWords_eq_map_range (bs : List Byte) :
    unpackWords bs =
      (List.range (bs.length / 2)).map fun i => joinBytes (bs.getD (2 * i) 0) (bs.getD (2 * i + 1) 0) := by
  induction bs using unpackWords.induct with
  | case1 h l rest ih =>
    rw [unpackWords, ih, show (h :: l :: rest).length / 2 = rest.length / 2 + 1 by simp; omega, List.range_succ_eq_map,
      List.map_cons, List.map_map]
    rfl
  | case2 bs hbs =>
    match bs, hbs with
    | [], _ => rfl
    | [_], _ => simp [unpackWords]
    | h :: l :: rest, hbs => exact absurd rfl (hbs h l rest)

/-- R99's formula for the words: byte `3 + 2i` of the frame is the high byte of word `i`, byte `4 + 2i` its low byte. -/
theorem unpackWords_payload {f : List Byte} {n : Nat} (hlen : 3 + n ≤ f.length) :
    unpackWords ((f.drop 3).take n) =
      (List.range (n / 2)).map fun i => joinBytes (frameByte f (3 + 2 * i)) (frameByte f (4 + 2 * i)) := by
  have hpayload : ((f.drop 3).take n).length = n := by simp; omega
  have hbyte {j : Nat} (hj : j < n) : ((f.drop 3).take n).getD j 0 = frameByte f (3 + j) := by
    simp [frameByte, hj]
  rw [unpackWords_eq_map_range, hpayload]
  refine List.map_congr_left fun i hmem => ?_
  have hi : i < n / 2 := List.mem_range.mp hmem
  rw [hbyte (by omega), hbyte (by omega), show 3 + (2 * i + 1) = 4 + 2 * i by omega]

/-! ### The outcomes -/

/-- Settles O51: the same checks in the same order; a frame that reaches the later ones has the bytes they read. -/
theorem decReadOutcome : Obligations.DecReadOutcome := by
  refine ⟨by decide, fun s => ?_⟩
  rw [exec_decRead]
  obtain ⟨_, _, _, rxOvf, rx, _, _, slave, _⟩ := s
  cases slave with
  | none => rfl
  | some S =>
    simp only [readVerdict]
    by_cases hshort : rx.length < 5
    · simp only [if_pos hshort]
      split_ifs <;> rfl
    · simp only [ne_eq, getElem?_eq_some_iff_frameByte (show 0 < rx.length by omega),
        getElem?_eq_some_iff_frameByte (show 1 < rx.length by omega), gt_iff_lt, ← frameByte_eq_getD]
      split_ifs
      any_goals rfl
      -- The last branch, OK: the words of the payload are those of R99's formula.
      rw [unpackWords_payload (by omega)]
      rfl

/-- Settles O54: format B's word, and the same checks in the same order. -/
theorem decAckOutcome : Obligations.DecAckOutcome := by
  refine ⟨fun _ => rfl, fun f s => ?_⟩
  rw [exec_decAck]
  obtain ⟨_, _, _, rxOvf, rx, _, _, slave, _⟩ := s
  cases slave with
  | none => rfl
  | some S =>
    simp only [ackVerdict]
    by_cases hshort : rx.length < 8
    · simp only [if_pos hshort]
      split_ifs <;> rfl
    · simp only [ne_eq, getElem?_eq_some_iff_frameByte (show 0 < rx.length by omega),
        getElem?_eq_some_iff_frameByte (show 1 < rx.length by omega)]
      split_ifs <;> rfl

end Sys2Proof.Machine
end

section
/-! PROOFS. The frames the response decoder accepts: exactly the read responses, and exactly the frames of the slave and
the function code, whatever they echo (R44, R74, R99, R100). -/

namespace Sys2Proof.Machine

theorem crcValid_appendCrc (m : List Byte) : crcValid (appendCrc m) = true := (crcValid_iff_appendCrc _).mpr ⟨m, rfl⟩

/-! ### Read responses (R99) -/

/-- R99's read response before its CRC: slave id, function code 0x03, byte count, and the words, high byte first. -/
def responseMessage (slave : Byte) (ws : List Half) : List Byte :=
  [slave, 0x03, BitVec.ofNat 8 (2 * ws.length)] ++ ws.flatMap fieldBytes

/-- A payload of whole words makes the message a read response of those words. -/
theorem responseMessage_unpackWords (S : Byte) {n : Byte} {payload : List Byte} (hlen : payload.length = n.toNat)
    (heven : n.toNat % 2 = 0) : responseMessage S (unpackWords payload) = [S, 0x03, n] ++ payload := by
  have hcount : 2 * (unpackWords payload).length = n.toNat := by rw [unpackWords_length]; omega
  rw [responseMessage, flatMap_fieldBytes_unpackWords payload (by omega), hcount, BitVec.ofNat_toNat,
    BitVec.setWidth_eq]

/-- A frame that passes every check of DEC.READ; `readVerdict_cases` has the converse. -/
theorem readVerdict_of_passed {rx : List Byte} (hvalid : crcValid rx = true) (hfc : frameByte rx 1 = 0x03)
    (hlen : rx.length = 5 + (frameByte rx 2).toNat) (heven : (frameByte rx 2).toNat % 2 = 0) :
    readVerdict (some (frameByte rx 0)) false rx =
      .ok (unpackWords ((rx.drop 3).take (frameByte rx 2).toNat)) := by
  simp [readVerdict, hvalid, hfc, hlen, heven]

theorem readVerdict_appendCrc {S n : Byte} {payload : List Byte} (hlen : payload.length = n.toNat)
    (heven : n.toNat % 2 = 0) :
    readVerdict (some S) false (appendCrc ([S, 0x03, n] ++ payload)) = .ok (unpackWords payload) := by
  have hpassed := readVerdict_of_passed (crcValid_appendCrc ([S, 0x03, n] ++ payload)) rfl
    (show _ = 5 + n.toNat by simp; omega) heven
  have hpayload : ((appendCrc ([S, 0x03, n] ++ payload)).drop 3).take n.toNat = payload := by simp [appendCrc, ← hlen]
  exact hpassed.trans (congrArg (Except.ok ∘ unpackWords) hpayload)

theorem readVerdict_responseMessage (S : Byte) {ws : List Half} (hlen : ws.length ≤ 127) :
    readVerdict (some S) false (appendCrc (responseMessage S ws)) = .ok ws := by
  have hcount : (BitVec.ofNat 8 (2 * ws.length)).toNat = 2 * ws.length := Nat.mod_eq_of_lt (by omega)
  rw [responseMessage, readVerdict_appendCrc (by rw [flatMap_fieldBytes_length, hcount]) (by omega),
    unpackWords_flatMap_fieldBytes]

/-- DEC.READ yields words exactly from the read response that carries them. -/
theorem readVerdict_eq_ok_iff {slave : Option Byte} {rxOvf : Bool} {rx : List Byte} {ws : List Half} :
    readVerdict slave rxOvf rx = .ok ws ↔
      ∃ S, slave = some S ∧ rxOvf = false ∧ ws.length ≤ 127 ∧ rx = appendCrc (responseMessage S ws) := by
  constructor
  · intro h
    obtain ⟨e, k, -, herr⟩ | ⟨hslave, hovf, hvalid, hfc, hlen, heven, -⟩ := readVerdict_cases slave rxOvf rx
    · cases herr.symm.trans h
    · obtain ⟨m, rfl⟩ := (crcValid_iff_appendCrc rx).mp hvalid
      rw [appendCrc_length] at hlen
      match m with
      | [] | [_] | [_, _] => simp at hlen; omega
      | S :: fc :: n :: payload =>
        obtain rfl : fc = 0x03 := hfc
        have hcount : payload.length = n.toNat := by
          change payload.length + 3 + 2 = 5 + n.toNat at hlen
          omega
        obtain rfl : slave = some S := hslave
        subst hovf
        cases (readVerdict_appendCrc hcount heven).symm.trans h
        exact ⟨S, rfl, rfl, readVerdict_ok_length h, by rw [responseMessage_unpackWords S hcount heven]; rfl⟩
  · rintro ⟨S, rfl, rfl, hlen, rfl⟩
    exact readVerdict_responseMessage S hlen

/-- DEC.READ records OK only with the words of its verdict. -/
theorem exec_decRead_of_ok {s t : State} (h : exec .decRead s = .next t) (hok : t.result = 0) :
    ∃ ws, readVerdict s.slave s.rxOvf s.rx = .ok ws ∧ t = decReadDone ws s := by
  cases effect_of_exec h with
  | encFails henc | encBuilds henc => cases henc
  | decReadFails e k hverdict =>
    exact absurd ((ResultCode.code_eq_zero_iff e).mp hok) (readVerdict_error_ne_ok hverdict)
  | decReadSucceeds ws hverdict => exact ⟨ws, hverdict, rfl⟩

/-- Settles O52: the verdict is OK exactly on the read responses, with their words. -/
theorem decReadAcceptsExactlyReadResponses : Obligations.DecReadAcceptsExactlyReadResponses := by
  refine ⟨fun s S ws hslave hovf hlen hrx => ?accepts, fun s t h hok => ?only⟩
  case accepts => exact exec_decRead_of_verdict (readVerdict_eq_ok_iff.mpr ⟨S, hslave, hovf, hlen, hrx⟩)
  case only =>
    obtain ⟨ws, hverdict, rfl⟩ := exec_decRead_of_ok h hok
    exact readVerdict_eq_ok_iff.mp hverdict

/-! ### Acknowledgements (R100) -/

/-- A frame that passes every check of DEC.ACK; `ackVerdict_cases` has the converse. -/
theorem ackVerdict_of_passed {rx : List Byte} (hlen : 8 ≤ rx.length) (hvalid : crcValid rx = true) :
    ackVerdict (frameByte rx 1) (some (frameByte rx 0)) false rx = (.ok, true) := by
  simp [ackVerdict, hvalid, Nat.not_lt.mpr hlen]

theorem ackVerdict_appendCrc (S f : Byte) {echo : List Byte} (hlen : 4 ≤ echo.length) :
    ackVerdict f (some S) false (appendCrc ([S, f] ++ echo)) = (.ok, true) :=
  ackVerdict_of_passed (by simp; omega) (crcValid_appendCrc _)

/-- An acknowledgement that DEC.ACK accepts is of the slave and the function code, with at least four bytes echoed. -/
theorem ackVerdict_ok {expected : Byte} {slave : Option Byte} {rxOvf : Bool} {rx : List Byte}
    (h : (ackVerdict expected slave rxOvf rx).1 = .ok) :
    ∃ S echo, slave = some S ∧ rxOvf = false ∧ 4 ≤ echo.length ∧ rx = appendCrc ([S, expected] ++ echo) := by
  obtain ⟨-, hslave, hovf, hlen, hvalid, hfc⟩ | ⟨e, k, hne, herr⟩ := ackVerdict_cases expected slave rxOvf rx
  · obtain ⟨m, rfl⟩ := (crcValid_iff_appendCrc rx).mp hvalid
    rw [appendCrc_length] at hlen
    match m with
    | [] | [_] => simp at hlen
    | S :: fc :: echo =>
      obtain rfl : fc = expected := hfc
      exact ⟨S, echo, hslave, hovf, by simpa using hlen, rfl⟩
  · rw [herr] at h
    exact absurd h hne

theorem exec_decAck_of_ok {f : Byte} {s t : State} (h : exec (.decAck f) s = .next t) (hok : t.result = 0) :
    (ackVerdict f s.slave s.rxOvf s.rx).1 = .ok := by
  cases h
  exact (ResultCode.code_eq_zero_iff _).mp hok

/-- DEC.ACK on a frame of the slave and the function code, whatever it echoes. -/
theorem exec_decAck_appendCrc {f S : Byte} {s : State} {echo : List Byte} (hslave : s.slave = some S)
    (hovf : s.rxOvf = false) (hlen : 4 ≤ echo.length) (hrx : s.rx = appendCrc ([S, f] ++ echo)) :
    exec (.decAck f) s = .next { s with crcOk := true, result := 0 } :=
  exec_decAck_of_verdict (by rw [hslave, hovf, hrx, ackVerdict_appendCrc S f hlen])

/-- Settles O55: the verdict is OK exactly on the frames of the slave and the function code. -/
theorem decAckDoesNotCheckTheEcho : Obligations.DecAckDoesNotCheckTheEcho := by
  intro f s S hslave hovf
  refine ⟨fun echo => exec_decAck_appendCrc hslave hovf, fun t h hok => ?only⟩
  case only =>
    obtain ⟨S', echo, hS', -, hlen, hrx⟩ := ackVerdict_ok (exec_decAck_of_ok h hok)
    obtain rfl : S = S' := Option.some_inj.mp (hslave.symm.trans hS')
    exact ⟨echo, hlen, hrx⟩

end Sys2Proof.Machine
end

section
/-! PROOFS. Laws of the response decoder: one changed byte is a CRC mismatch, and an echoed write request is acknowledged
(R79, R101, R102). -/

namespace Sys2Proof.Machine

open Sys2Proof.Safety

/-! ### One byte changed (R101) -/

theorem readVerdict_of_invalid (S : Byte) {rx : List Byte} (hlen : 5 ≤ rx.length) (hinvalid : crcValid rx = false) :
    readVerdict (some S) false rx = .error (.crcMismatch, false) := by
  simp [readVerdict, Nat.not_lt.mpr hlen, hinvalid]

theorem ackVerdict_of_invalid (expected S : Byte) {rx : List Byte} (hlen : 8 ≤ rx.length)
    (hinvalid : crcValid rx = false) : ackVerdict expected (some S) false rx = (.crcMismatch, false) := by
  simp [ackVerdict, Nat.not_lt.mpr hlen, hinvalid]

theorem exec_decRead_of_invalid {s : State} {S : Byte} (hslave : s.slave = some S) (hovf : s.rxOvf = false)
    (hlen : 5 ≤ s.rx.length) (hinvalid : crcValid s.rx = false) :
    exec .decRead s = .next (decReadFail .crcMismatch false s) :=
  exec_decRead_of_verdict (by rw [hslave, hovf, readVerdict_of_invalid S hlen hinvalid])

theorem exec_decAck_of_invalid (f : Byte) {s : State} {S : Byte} (hslave : s.slave = some S) (hovf : s.rxOvf = false)
    (hlen : 8 ≤ s.rx.length) (hinvalid : crcValid s.rx = false) :
    exec (.decAck f) s = .next (checkEnd .crcMismatch false s) :=
  exec_decAck_of_verdict (by rw [hslave, hovf, ackVerdict_of_invalid f S hlen hinvalid])

/-- Settles O56: an accepted frame passed the checks before the CRC, a changed byte leaves its length and so passes them
too, and the CRC no longer holds (R79). -/
theorem singleByteCorruptionGivesCrcMismatch : Obligations.SingleByteCorruptionGivesCrcMismatch := by
  intro i s t k b hi h hok hk hne
  have hchanged (hvalid : crcValid s.rx = true) : crcValid (s.rx.set k b) = false :=
    singleByteErrorIsDetected s.rx k b hvalid hk hne
  obtain rfl | ⟨f, rfl⟩ := hi
  · obtain ⟨ws, hverdict, rfl⟩ := exec_decRead_of_ok h hok
    obtain ⟨S, hslave, hovf, -, hrx⟩ := readVerdict_eq_ok_iff.mp hverdict
    have hlen : 5 ≤ (s.rx.set k b).length := by simp [hrx, responseMessage]
    have hinvalid := hchanged (by rw [hrx, crcValid_appendCrc])
    exact ⟨_, exec_decRead_of_invalid hslave hovf hlen hinvalid, rfl, rfl, rfl⟩
  · obtain ⟨S, echo, hslave, hovf, hecho, hrx⟩ := ackVerdict_ok (exec_decAck_of_ok h hok)
    cases h
    have hlen : 8 ≤ (s.rx.set k b).length := by simp [hrx, hecho]
    have hinvalid := hchanged (by rw [hrx, crcValid_appendCrc])
    exact ⟨_, exec_decAck_of_invalid f hslave hovf hlen hinvalid, rfl, rfl, rfl⟩

/-! ### The echo of a write request (R102) -/

theorem exec_encWrite1_of_ok {s t : State} (h : exec .encWrite1 s = .next t) (hok : t.result = 0) :
    ∃ S A v, s.slave = some S ∧ t = encBuild (requestMessage S 0x06 A v) s := by
  cases h
  obtain herr | ⟨S, A, v, hslave, -, -, hrequest⟩ := writeRequest_cases s.slave s.addr s.arg
  · rw [herr] at hok
    cases hok
  · exact ⟨S, A, v, hslave, by rw [hrequest, encEnd]⟩

theorem exec_encWriteN_of_ok {s t : State} (h : exec .encWriteN s = .next t) (hok : t.result = 0) :
    ∃ S A, s.slave = some S ∧ t = encBuild (writeMultipleMessage S A s.vals) s := by
  cases h
  obtain ⟨e, hne, herr⟩ | ⟨S, A, hslave, -, -, hrequest⟩ := writeMultipleRequest_cases s.slave s.addr s.vals
  · rw [herr] at hok
    exact absurd ((ResultCode.code_eq_zero_iff e).mp hok) hne
  · exact ⟨S, A, hslave, by rw [hrequest, encEnd]⟩

/-- A frame of the slave and the function code that echoes an address and one more field, delivered and checked. -/
theorem runInstrs_deliver_decAck {s : State} {S : Byte} (f : Byte) (hslave : s.slave = some S) (A v : Half) :
    runInstrs (.rxStart :: ((appendCrc (requestMessage S f A v)).map .rxByte ++ [.decAck f])) s =
      .next { s with rx := appendCrc (requestMessage S f A v), rxOvf := false, crcOk := true, result := 0 } := by
  rw [runInstrs_deliver_then (by simp)]
  exact runInstrs_cons_of_next []
    (exec_decAck_appendCrc (echo := fieldBytes A ++ fieldBytes v) hslave rfl (by simp) rfl)

/-- The first six bytes of a 0x10 request are its slave id, function code, address and count (R96). -/
theorem take_six_writeMultipleFrame (S : Byte) (A : Half) (vals : List Half) :
    (appendCrc (writeMultipleMessage S A vals)).take 6 = requestMessage S 0x10 A (BitVec.ofNat 16 vals.length) := rfl

/-- Settles O57: both echoes carry the slave id, which the encoder found set, and the function code. -/
theorem echoedRequestIsAcknowledged : Obligations.EchoedRequestIsAcknowledged := by
  refine ⟨fun s t h hok => ?write1, fun s t h hok => ?writeN⟩
  case write1 =>
    obtain ⟨S, A, v, hslave, rfl⟩ := exec_encWrite1_of_ok h hok
    rw [encBuild_tx]
    exact runInstrs_deliver_decAck (s := encBuild _ s) 0x06 hslave A v
  case writeN =>
    obtain ⟨S, A, hslave, rfl⟩ := exec_encWriteN_of_ok h hok
    rw [encBuild_tx, take_six_writeMultipleFrame]
    exact runInstrs_deliver_decAck (s := encBuild _ s) 0x10 hslave A _

end Sys2Proof.Machine
end

section
/-! PROOFS. A command that does not complete with OK leaves its failure effects and nothing else (R92, R105). -/

namespace Sys2Proof.Machine

/-- Settles O22: the effects that record OK are no failures, and each of the others is the failure effect of its own
command; the three encoders share theirs. -/
theorem failingCommandWritesOnlyItsFailureEffects : Obligations.FailingCommandWritesOnlyItsFailureEffects := by
  intro i s t h hfail
  cases effect_of_exec h with
  | crcInit | crcByte | rxStart | rxByteFits | setSlave | setAddr | setArg | valPushFits | valClear | encBuilds
  | decReadSucceeds => exact absurd rfl hfail
  | encFails henc =>
    cases i with
    | encRead | encWrite1 | encWriteN => rfl
    | _ => cases henc
  | rxByteFull | rxCheck | valPushFull | decReadFails | decAck | illegal => rfl

end Sys2Proof.Machine
end

section
/-! PROOFS. No run stops by itself, and what the host sees of the actions it takes (R126). -/

namespace Sys2Proof.Machine

open Sys2Proof.Safety

/-- The reads among the host's actions: the ones that return a value (R42). `noRunEverStops` counts them. -/
def HostAction.isRead : HostAction → Bool
  | .read _ => true
  | .command _ | .reset => false

/-- An action answers a next state, leaves the actions still to come, and returns one value if it is a read and none
otherwise. -/
theorem perform_returns_one_value_per_read (a : HostAction) (s : State) :
    ∃ t, perform a s = .next t ∧ t.pending = s.pending ∧
      t.observed.length = s.observed.length + if a.isRead then 1 else 0 := by
  cases a with
  | command w =>
    obtain ⟨t, ht, heff⟩ := exec_effect (decode w) s
    obtain ⟨hpending, hobserved, -, -⟩ := heff.keeps_host
    exact ⟨t, ht, hpending, congrArg List.length hobserved⟩
  | read a => exact ⟨_, perform_read a s, rfl, by simp [HostAction.isRead]⟩
  | reset => exact ⟨_, perform_reset s, rfl, rfl⟩

/-- A step takes the oldest action, where there is one, and nothing else from the list. -/
theorem step_takes_one_action (s : State) :
    ∃ t, step s = .next t ∧ t.pending = s.pending.drop 1 ∧
      t.observed.length = s.observed.length + (s.pending.take 1).countP HostAction.isRead := by
  cases hpending : s.pending with
  | nil => exact ⟨s, step_of_pending_nil hpending, hpending, rfl⟩
  | cons a rest =>
    obtain ⟨t, ht, hrest, hobserved⟩ := perform_returns_one_value_per_read a { s with pending := rest }
    exact ⟨t, (step_of_pending_cons hpending).trans ht, hrest, by simp [hobserved, List.countP_singleton]⟩

/-- The actions of a run are those of its first step, then those of the steps after it. -/
theorem run_takes_actions (n : Nat) (s : State) :
    ∃ t, Sys2Proof.core.run n s = .next t ∧ t.pending = s.pending.drop n ∧
      t.observed.length = s.observed.length + (s.pending.take n).countP HostAction.isRead := by
  induction n generalizing s with
  | zero => exact ⟨s, rfl, rfl, rfl⟩
  | succ n ih =>
    obtain ⟨u, hstep, hpending, hobserved⟩ := step_takes_one_action s
    obtain ⟨t, hrun, hpending', hobserved'⟩ := ih u
    refine ⟨t, (run_succ_of_next n hstep).trans hrun, ?_, ?_⟩
    · rw [hpending', hpending, List.drop_drop, Nat.add_comm]
    · rw [hobserved', hobserved, hpending, Nat.add_comm n 1, List.take_add, List.countP_append, Nat.add_assoc]

/-- Settles O19: a run of any length, with the reads told apart as the statement does it. -/
theorem noRunEverStops : Obligations.NoRunEverStops := by
  intro n s
  obtain ⟨t, hrun, hpending, hobserved⟩ := run_takes_actions n s
  refine ⟨t, hrun, hpending, hobserved.trans (congrArg _ (List.countP_congr fun a _ => ?_))⟩
  cases a <;> exact Iff.rfl

end Sys2Proof.Machine
end

section
/-! PROOFS. Reset (R115), and the read port before the first one (R117). -/

namespace Sys2Proof.Machine

/-! ### The step that takes a reset, and the map after it -/

theorem step_of_pending_reset {s : State} {rest : List HostAction} (h : s.pending = .reset :: rest) :
    step s = .next (performReset { s with pending := rest }) := by
  rw [step_of_pending_cons h, perform_reset]

/-- STATUS reads no field of the host's side of the run, which a reset keeps. -/
theorem readPortWith_status_performReset (hasFramer : Bool) (s : State) :
    readPortWith hasFramer (performReset s) 0x001 = some 0x0000 :=
  congrArg some (statusWith_reset hasFramer)

theorem readPortWith_config (hasFramer : Bool) (s : State) :
    readPortWith hasFramer s 0x009 = some (if hasFramer then 0x0001 else 0x0000) := by
  cases hasFramer <;> rfl

/-- A value that is not there is unspecified, with the framer and without it (R41). -/
@[simp] theorem framerValue_none (hasFramer : Bool) : framerValue hasFramer none = none := ite_self none

/-- Each of the four windows shows an empty buffer, and the gaps show nothing in any state (R41, R115). -/
theorem readPortWith_buffers_performReset (hasFramer : Bool) (s : State) {a : Half} (ha : 0x100 ≤ a.toNat) :
    readPortWith hasFramer (performReset s) a = none := by
  rw [readPortWith_eq_readWindows hasFramer _ (by omega)]
  simp [readWindows]

/-- Settles O14: the fields are those of `performReset`, and the map shows their reset values. -/
theorem resetSetsEveryField : Obligations.ResetSetsEveryField := by
  intro hasFramer s rest h
  refine ⟨_, step_of_pending_reset h, rfl, rfl, rfl, rfl, rfl, rfl, rfl, rfl, rfl, rfl, rfl, rfl, rfl,
    readPortWith_status_performReset hasFramer _, readPortWith_config hasFramer _, ?slave, ?addr, ?arg,
    fun a ha => readPortWith_buffers_performReset hasFramer _ ha⟩
  case slave | addr | arg => exact framerValue_none hasFramer

/-! ### Before the first reset -/

theorem readPort_of_not_resetSeen {s : State} (h : s.resetSeen = false) (a : Half) : readPort s a = none :=
  if_neg (Bool.eq_false_iff.mp h)

/-- A reset leads to the reset state of a unit whose host has not read anything yet (R115, R117). -/
theorem performReset_of_unread {s : State} (hobserved : s.observed = []) (hdraws : s.draws = 0) :
    performReset s = { State.reset with pending := s.pending } := by
  rw [performReset, hobserved, hdraws]
  rfl

/-- Settles O15: the flag is not set at power-on, and the first reset overwrites every free value. -/
theorem powerOnIsUnspecifiedUntilReset : Obligations.PowerOnIsUnspecifiedUntilReset := by
  refine ⟨fun s a h => readPort_of_not_resetSeen h a, fun rest => ⟨rfl, ?_⟩⟩
  rw [step_of_pending_reset rfl, performReset_of_unread rfl rfl]

end Sys2Proof.Machine
end
